-- ==== Sys2Proof/Word.lean ====
section
/-!
DEFINITION. The block's word types. Bit 0 is the least significant bit of every value and every
value is unsigned (00_scope.md R8). Widths are those of the parameter table R6.
-/

namespace Sys2Proof

/-- A stimulus word, 32 bits: one operation (30_encoding.md R91). -/
abbrev Word := BitVec 32

/-- One byte of a trace file (20_memory.md R69). -/
abbrev Byte := BitVec 8

/-- A symbol code, SYM_W = 5 bits (30_encoding.md R95). -/
abbrev SymCode := BitVec 5

/-- A step width, STEP_W = 8 bits, in eighths of a table slot (10_state.md R23). -/
abbrev StepWidth := BitVec 8

/-- An entry of the waveform table, AMP_W = 7 bits, hence 0..127 (20_memory.md R61). -/
abbrev Amp := BitVec 7

/-- An output sample, OUT_W = 8 bits (10_state.md R25). -/
abbrev Sample := BitVec 8

/-- A duration in milliseconds, DUR_W = 16 bits (10_state.md R31). -/
abbrev Millis := BitVec 16

/-- A count of sample ticks, TICKCNT_W = 32 bits (10_state.md R28). -/
abbrev TickCount := BitVec 32

/-- A raw pulse count, CNT_W = 8 bits (10_state.md R35). -/
abbrev PulseCount := BitVec 8

end Sys2Proof
end

