-- ==== Sys2Proof/Syntax.lean ====
section
/-!
DEFINITION. The nine operations of the block (30_encoding.md R90), one constructor for each row of the
opcode table (R97). Operands have exactly the widths that R94 gives them.
-/

namespace Sys2Proof

/-- An operation: two commands of the host and seven line events (30_encoding.md R90). -/
inductive Instr
  /-- INIT, the synthesizer init (40_dds.md R121). -/
  | init
  /-- TONE sym, dur: play a symbol for `dur` milliseconds (40_dds.md R130). -/
  | tone (sym : SymCode) (dur : Millis)
  /-- TICK, one sample tick (40_dds.md R135). -/
  | tick
  /-- DIALE, the dial-active line returns to rest (41_decoder.md R180). -/
  | diale
  /-- DIALS, the dial-active line goes to dialing (41_decoder.md R174). -/
  | dials
  /-- PULSE, a pulse-line edge of the counted direction (41_decoder.md R177). -/
  | pulse
  /-- DBREL, the end of the debounce lockout (41_decoder.md R178). -/
  | dbrel
  /-- SFINH lvl, a new level of the input sf_inhibit (41_decoder.md R179). -/
  | sfinh (lvl : Bool)
  /-- RESET, the platform's reset line (40_dds.md R120). -/
  | reset
  deriving DecidableEq, Repr, Inhabited

/-- The agents that apply events to the block (00_scope.md R11; 30_encoding.md R90 for the mode state
machine as the agent of SFINH). -/
inductive Agent
  | host
  | sampleTickSource
  | edgeSource
  | modeStateMachine
  | coarseTimer
  | platform
  deriving DecidableEq, Repr

end Sys2Proof
end

