-- ==== Sys2Proof/Config.lean ====
section
/-!
DEFINITION. The configuration record of 00_scope.md R6, as plain data, and the constants with no body
that stand for what the spec leaves open. Every value of type `Config` is a well-formed configuration
(R7, R61, R64, R66): the types leave no room for another (log 7). The lookups into the tables stand in
Machine/Operands.lean.
-/

namespace Sys2Proof

/-- MAP_POLICY, the count-to-digit mapping policy: "A model's MAP_POLICY type has the three named
values only" (10_state.md R39, U10). -/
inductive MapPolicy
  | standard
  | reversed
  | offset
  deriving DecidableEq, Repr, Inhabited

/-- The ToneSpec of a two-tone symbol. `stepB` is held as its predecessor, so that it is in 1..255:
for the DTMF and MF symbols `stepB != 0` (20_memory.md R64(c), log 7). -/
structure DualTone where
  stepA : StepWidth
  stepBPred : Fin 255
  deriving DecidableEq, Repr, Inhabited

/-- One element of a tune list: "(stepA, sub-duration)", in milliseconds (20_memory.md R65). -/
structure TuneNote where
  stepA : StepWidth
  ms : Millis
  deriving DecidableEq, Repr, Inhabited

/-- A tune list of 1, 2 or 3 entries (20_memory.md R66(a)). -/
inductive TuneList
  | one (n0 : TuneNote)
  | two (n0 n1 : TuneNote)
  | three (n0 n1 n2 : TuneNote)
  deriving DecidableEq, Repr, Inhabited

/-- The configuration record (00_scope.md R6). TABLE_LEN, IDX_W, FRAC_BITS, ROUND_ADD, AMP_W, OUT_W,
STEP_W, DUR_W, TICKCNT_W, CNT_W and SYM_W have one value each and are the widths of Word.lean and the
numerals of Machine/Ops.lean; PULSE_POL "is not visible inside the model" (R6, log 13). -/
structure Config where
  /-- PHASE_W - 10, so that PHASE_W >= 10 (R6, R7, R21; log 6). -/
  phaseExtra : Nat
  /-- SINE: 128 entries in 0..127 (20_memory.md R61). -/
  sine : Vector Amp 128
  /-- MF_SUPPORTED (R6, D34). -/
  mfSupported : Bool
  /-- FREQ of codes 0..11: the 12 DTMF symbols (20_memory.md R63, R64). -/
  dtmf : Vector DualTone 12
  /-- FREQ of codes 12..23: the 12 MF symbols, read only when MF_SUPPORTED (R63, R64). -/
  mf : Vector DualTone 12
  /-- stepA of FREQ[SUP2600]; its stepB is 0 (R64(b)). -/
  sup2600 : StepWidth
  /-- stepA of FREQ[BEEP]; its stepB is 0 (R64(b)). -/
  beep : StepWidth
  /-- stepA of FREQ[BEEP_LOW]; its stepB is 0 (R64(b)). -/
  beepLow : StepWidth
  /-- TUNE[TUNE_ASC]: exactly 3 entries (20_memory.md R66(b)). -/
  tuneAsc : Vector TuneNote 3
  /-- TUNE[TUNE_DESC] (20_memory.md R66(a); log 7). -/
  tuneDesc : TuneList
  /-- TICKS_PER_MS - 1. TICKS_PER_MS >= 1, and `dur * TICKS_PER_MS < 2^32` for every `dur` below
  2^16 holds exactly when TICKS_PER_MS <= 65537 (R6, R7). -/
  ticksPerMsPred : Fin 65537
  /-- The strap MAP_POLICY (R6, R39). -/
  mapPolicy : MapPolicy
  deriving DecidableEq, Repr, Inhabited

/-- The configuration the machine is built with. The spec leaves it open (U5 to U11), so it has no
body: nothing can be proved of it but what holds of every well-formed configuration (log 4).
DESIGN CHOICE, safe. -/
opaque Config.platform : Config

/-- The n-th unspecified value of `sample_out`, "an arbitrary 8-bit value it may not depend on"
(10_state.md R25, D19, U3). No body: a free value (log 5). DESIGN CHOICE, safe. -/
opaque Config.unspecifiedSample : Nat → Sample

/-- SINE_REF, the spec's reference instance (20_memory.md R62), index 0 first. No meaning of the
model reads it: SINE is a parameter (R61). -/
def Config.sineRef : Vector Amp 128 := #v[
  64, 67, 70, 73, 76, 79, 82, 85, 88, 91, 93, 96, 99, 101, 104, 106,
  108, 111, 113, 115, 116, 118, 120, 121, 122, 123, 124, 125, 126, 126, 127, 127,
  127, 127, 127, 126, 126, 125, 124, 123, 122, 121, 120, 118, 116, 115, 113, 111,
  108, 106, 104, 101, 99, 96, 93, 91, 88, 85, 82, 79, 76, 73, 70, 67,
  64, 60, 57, 54, 51, 48, 45, 42, 39, 36, 34, 31, 28, 26, 23, 21,
  19, 16, 14, 12, 11, 9, 7, 6, 5, 4, 3, 2, 1, 1, 0, 0,
  0, 0, 0, 1, 1, 2, 3, 4, 5, 6, 7, 9, 11, 12, 14, 16,
  19, 21, 23, 26, 28, 31, 34, 36, 39, 42, 45, 48, 51, 54, 57, 60]

end Sys2Proof
end

