-- ==== Sys2Proof/Machine/Operands.lean ====
section
/-!
DEFINITION. What the operands of the operations mean: the symbol codes (30_encoding.md R95), which of
them are playable (R96), and the entries of FREQ and TUNE that they address (20_memory.md R63 to R66).
The block has no other operand form: an operand is used as it stands (R94).
-/

namespace Sys2Proof.Machine

/-- The classes of symbol codes, with the row of the table that a code addresses (30_encoding.md R95). -/
inductive Symbol
  | dtmf (row : Fin 12)
  | mf (row : Fin 12)
  | sup2600
  | beep
  | beepLow
  | tuneAsc
  | tuneDesc
  | reserved
  | off
  deriving DecidableEq, Repr

/-- The code of OFF, "all ones" (30_encoding.md R95, D5). -/
def offCode : SymCode := 31

/-- The symbol that a 5-bit code stands for (30_encoding.md R95). -/
def symbolOf (code : SymCode) : Symbol :=
  if dtmfRow : code.toNat < 12 then .dtmf ⟨code.toNat, dtmfRow⟩
  else if mfRow : code.toNat < 24 then .mf ⟨code.toNat - 12, by omega⟩
  else if code.toNat = 24 then .sup2600
  else if code.toNat = 25 then .beep
  else if code.toNat = 26 then .beepLow
  else if code.toNat = 27 then .tuneAsc
  else if code.toNat = 28 then .tuneDesc
  else if code.toNat = 31 then .off
  else .reserved

/-- "A symbol code is playable when it is a tonal or tune symbol whose table entry exists in the
configuration" (30_encoding.md R96). -/
def playable (c : Config) (code : SymCode) : Bool :=
  match symbolOf code with
  | .dtmf _ | .beep | .beepLow | .tuneAsc | .tuneDesc => true
  | .mf _ | .sup2600 => c.mfSupported
  | .reserved | .off => false

/-- The column "Storable in speed-dial memory" of 30_encoding.md R95. The block does not use it; it is
for models of the environment. -/
def storable (code : SymCode) : Bool :=
  match symbolOf code with
  | .dtmf _ | .mf _ | .sup2600 => true
  | .beep | .beepLow | .tuneAsc | .tuneDesc | .reserved | .off => false

/-- PHASE_W (00_scope.md R6, R21). -/
def phaseWidth (c : Config) : Nat := 10 + c.phaseExtra

/-- TICKS_PER_MS (00_scope.md R6). -/
def ticksPerMs (c : Config) : Nat := c.ticksPerMsPred.val + 1

/-- The stepB of a two-tone ToneSpec, in 1..255 (20_memory.md R64(c)). -/
def dualStepB (d : DualTone) : StepWidth := BitVec.ofNat 8 (d.stepBPred.val + 1)

/-- A ToneSpec: "pair (stepA, stepB) of fixed-point phase increments" (20_memory.md R63). -/
structure ToneSpec where
  stepA : StepWidth
  stepB : StepWidth
  deriving DecidableEq, Repr

/-- FREQ: the ToneSpec of a tonal symbol whose entry exists, none for every other code
(20_memory.md R60, R63, R64). -/
def freq (c : Config) (code : SymCode) : Option ToneSpec :=
  match symbolOf code with
  | .dtmf row => some ⟨(c.dtmf[row]).stepA, dualStepB c.dtmf[row]⟩
  | .mf row => if c.mfSupported then some ⟨(c.mf[row]).stepA, dualStepB c.mf[row]⟩ else none
  | .sup2600 => if c.mfSupported then some ⟨c.sup2600, 0⟩ else none
  | .beep => some ⟨c.beep, 0⟩
  | .beepLow => some ⟨c.beepLow, 0⟩
  | .tuneAsc | .tuneDesc | .reserved | .off => none

/-- The entries of a tune list, in playing order (20_memory.md R65). -/
def tuneEntries (l : TuneList) : List TuneNote :=
  match l with
  | .one n0 => [n0]
  | .two n0 n1 => [n0, n1]
  | .three n0 n1 n2 => [n0, n1, n2]

/-- TUNE: the note list of a tune symbol, none for every other code (20_memory.md R60, R65, R66). -/
def tune (c : Config) (code : SymCode) : Option (List TuneNote) :=
  match symbolOf code with
  | .tuneAsc => some c.tuneAsc.toList
  | .tuneDesc => some (tuneEntries c.tuneDesc)
  | .dtmf _ | .mf _ | .sup2600 | .beep | .beepLow | .reserved | .off => none

/-- What the hardware makes of the two strap pins: 0 STANDARD, 1 REVERSED, 2 OFFSET, and "3 is
reserved and the hardware treats it as STANDARD" (10_state.md R39). -/
def mapPolicyOfStrap (pins : BitVec 2) : MapPolicy :=
  if pins = 1 then .reversed
  else if pins = 2 then .offset
  else .standard

/-- The agent that issues an operation (30_encoding.md R90). -/
def agentOf (i : Instr) : Agent :=
  match i with
  | .init | .tone _ _ => .host
  | .tick => .sampleTickSource
  | .diale | .dials | .pulse => .edgeSource
  | .dbrel => .coarseTimer
  | .sfinh _ => .modeStateMachine
  | .reset => .platform

/-- The two commands travel on the command port; the other seven are line events (30_encoding.md R90). -/
def isCommand (i : Instr) : Bool :=
  match i with
  | .init | .tone _ _ => true
  | .tick | .diale | .dials | .pulse | .dbrel | .sfinh _ | .reset => false

end Sys2Proof.Machine
end

