-- ==== Sys2Proof/WellFormed.lean ====
section
/-!
DEFINITION. The checks on what the environment hands the block. The operands of an `Instr` have exactly
their field's width (R94), so every term of it has an encoding; what is left to check is a raw stimulus
word (30_encoding.md R92, R98) and the host's contract (60_exceptions.md R214). A configuration that is
not well formed cannot be written down (Config.lean, log 7).
-/

namespace Sys2Proof

/-- The three formats (30_encoding.md R92). -/
inductive Format
  | z
  | t
  | l
  deriving DecidableEq, Repr

/-- The format of a class `op` of the stimulus word, none for a reserved class
(30_encoding.md R92, R97, R98). -/
def classFormat (op : BitVec 4) : Option Format :=
  if op = 0x2 then some .t
  else if op = 0xC then some .l
  else if op = 0x1 ∨ op = 0x8 ∨ op = 0x9 ∨ op = 0xA ∨ op = 0xB ∨ op = 0xF then some .z
  else none

/-- A stimulus word is well formed when its class is defined and "bits not named" by its format are 0.
`sub` may be 1 in class 0x9 only (30_encoding.md R92); every other word is reserved (R98). -/
def wellFormedWord (w : Word) : Bool :=
  match classFormat (w.extractLsb' 28 4) with
  | none => false
  | some .z =>
    w.extractLsb' 1 27 == 0 && (w.extractLsb' 0 1 == 0 || w.extractLsb' 28 4 == 0x9)
  | some .t => w.extractLsb' 21 7 == 0
  | some .l => w.extractLsb' 1 27 == 0

/-- The host "must pass only playable symbols to TONE" (60_exceptions.md R214, 70_reset_and_hazards.md
R253). No other operation carries an obligation. -/
def withinContract (c : Config) (i : Instr) : Bool :=
  match i with
  | .tone sym _ => Machine.playable c sym
  | .init | .tick | .diale | .dials | .pulse | .dbrel | .sfinh _ | .reset => true

end Sys2Proof
end

