-- ==== Sys2Proof/Decode.lean ====
section
/-!
DEFINITION. Decoding of the stimulus word from the opcode map (30_encoding.md R97), total on every word
and on every string of trace bytes, rejecting by name; then the encoder, written from the formats
(R92, R94). "every word is decoded by rule R97 alone, in every state" (R99).
-/

namespace Sys2Proof

/-- `sym = w[20:16]` (30_encoding.md R94). -/
def symField (w : Word) : SymCode := w.extractLsb' 16 5

/-- `dur = w[15:0]` (30_encoding.md R94). -/
def durField (w : Word) : Millis := w.extractLsb' 0 16

/-- `lvl = w[0]` (30_encoding.md R94). -/
def lvlField (w : Word) : Bool := w.getLsbD 0

/-- The class field `op = w[31:28]` (30_encoding.md R91). -/
def opField (w : Word) : BitVec 4 := w.extractLsb' 28 4

/-- "Classes 0x1 and 0x2 are command words: in hardware they travel on the 32-bit command port `cmd`"
(30_encoding.md R91). -/
def isCommandWord (w : Word) : Bool := opField w == 0x1 || opField w == 0x2

/-- A row of the opcode map: the words `w` with `w & mask = pattern` (30_encoding.md R97). -/
structure OpcodeRow where
  mnemonic : String
  pattern : Word
  mask : Word
  deriving DecidableEq, Repr

/-- The opcode map (30_encoding.md R97), in the order of the spec's table. -/
def opcodeRows : List OpcodeRow := [
  ⟨"INIT", 0x10000000, 0xFFFFFFFF⟩,
  ⟨"TONE", 0x20000000, 0xFFE00000⟩,
  ⟨"TICK", 0x80000000, 0xFFFFFFFF⟩,
  ⟨"DIALE", 0x90000000, 0xFFFFFFFF⟩,
  ⟨"DIALS", 0x90000001, 0xFFFFFFFF⟩,
  ⟨"PULSE", 0xA0000000, 0xFFFFFFFF⟩,
  ⟨"DBREL", 0xB0000000, 0xFFFFFFFF⟩,
  ⟨"SFINH", 0xC0000000, 0xFFFFFFFE⟩,
  ⟨"RESET", 0xF0000000, 0xFFFFFFFF⟩]

/-- A word selects a row when its masked bits are the row's pattern (30_encoding.md R97). -/
def OpcodeRow.selects (r : OpcodeRow) (w : Word) : Bool := w &&& r.mask == r.pattern

/-- Why bytes or a word are no operation (30_encoding.md R91, R98). -/
inductive Reject
  /-- The class `op` is one of 0x0, 0x3 to 0x7, 0xD, 0xE (R98). -/
  | reservedClass (op : BitVec 4)
  /-- The class is defined and a bit that R92 requires to be 0 is set (R98). -/
  | unnamedBitSet (w : Word)
  /-- A trace ends inside a word: every word is exactly 32 bits long (R91). -/
  | truncated
  deriving DecidableEq, Repr

/-- The reason for which a reserved word is rejected (30_encoding.md R98). -/
def rejectWord (w : Word) : Reject :=
  if classFormat (opField w) = none then .reservedClass (opField w) else .unnamedBitSet w

/-- Decoding of a stimulus word: the rows of the opcode map in the order of the table
(30_encoding.md R97); a word that no row selects is reserved (R98). -/
def decode (w : Word) : Except Reject Instr :=
  if w = 0x10000000 then .ok .init
  else if w &&& 0xFFE00000 = 0x20000000 then .ok (.tone (symField w) (durField w))
  else if w = 0x80000000 then .ok .tick
  else if w = 0x90000000 then .ok .diale
  else if w = 0x90000001 then .ok .dials
  else if w = 0xA0000000 then .ok .pulse
  else if w = 0xB0000000 then .ok .dbrel
  else if w &&& 0xFFFFFFFE = 0xC0000000 then .ok (.sfinh (lvlField w))
  else if w = 0xF0000000 then .ok .reset
  else .error (rejectWord w)

/-- A word from four trace bytes, least significant byte first (20_memory.md R69). -/
def wordOfBytes (b0 b1 b2 b3 : Byte) : Word := b3 ++ b2 ++ b1 ++ b0

/-- The four trace bytes of a word, least significant byte first (20_memory.md R69). -/
def bytesOfWord (w : Word) : List Byte :=
  [w.extractLsb' 0 8, w.extractLsb' 8 8, w.extractLsb' 16 8, w.extractLsb' 24 8]

/-- Decoding of the first operation of a trace file, with the bytes that follow it
(20_memory.md R69, 30_encoding.md R91). -/
def decodeBytes (bytes : List Byte) : Except Reject (Instr × List Byte) :=
  match bytes with
  | b0 :: b1 :: b2 :: b3 :: rest =>
    match decode (wordOfBytes b0 b1 b2 b3) with
    | .ok i => .ok (i, rest)
    | .error r => .error r
  | _ => .error .truncated

/-- The mnemonic of an operation, as the opcode map spells it (30_encoding.md R97). -/
def mnemonicOf (i : Instr) : String :=
  match i with
  | .init => "INIT"
  | .tone _ _ => "TONE"
  | .tick => "TICK"
  | .diale => "DIALE"
  | .dials => "DIALS"
  | .pulse => "PULSE"
  | .dbrel => "DBREL"
  | .sfinh _ => "SFINH"
  | .reset => "RESET"

/-- A word of format Z: `op` in bits 31:28, `sub` in bit 0 (30_encoding.md R92). -/
def formatZ (op : BitVec 4) (sub : BitVec 1) : Word := op ++ (0 : BitVec 27) ++ sub

/-- A word of format T: `op`, seven zeros, `sym`, `dur` (30_encoding.md R92). -/
def formatT (op : BitVec 4) (sym : SymCode) (dur : Millis) : Word :=
  op ++ (0 : BitVec 7) ++ sym ++ dur

/-- A word of format L: `op`, zeros, `lvl` in bit 0 (30_encoding.md R92). -/
def formatL (op : BitVec 4) (lvl : Bool) : Word := op ++ (0 : BitVec 27) ++ BitVec.ofBool lvl

/-- The stimulus word of an operation (30_encoding.md R92, R94). -/
def encode (i : Instr) : Word :=
  match i with
  | .init => formatZ 0x1 0
  | .tone sym dur => formatT 0x2 sym dur
  | .tick => formatZ 0x8 0
  | .diale => formatZ 0x9 0
  | .dials => formatZ 0x9 1
  | .pulse => formatZ 0xA 0
  | .dbrel => formatZ 0xB 0
  | .sfinh lvl => formatL 0xC lvl
  | .reset => formatZ 0xF 0

/-- The stimulus word of a table row's bits: the low `nbits` bits of `w`, every bit above them 0. -/
def stimulusOf (nbits w : Nat) : Word := BitVec.ofNat 32 (w % 2 ^ nbits)

/-- The instruction that the decoder reads from an instruction whose low `nbits` bits are `w`, laid out
as a trace stores it (20_memory.md R69). There is no length but 32 bits (30_encoding.md R91). -/
def decodeTableWord (nbits w : Nat) : Option Instr :=
  if w % 2 ^ nbits < 2 ^ 32 then
    match decodeBytes (bytesOfWord (stimulusOf nbits w)) with
    | .ok (i, _) => some i
    | .error _ => none
  else none

end Sys2Proof
end

