-- ==== Sys2Proof/Machine/State.lean ====
section
/-!
DEFINITION. The state of the block as plain data: the twelve DDS registers (10_state.md R21 to R31, R33),
the five decoder registers (R34 to R38), and beside them the parameter, the inputs and the outputs of the
step, which R20 says are not state of the block and which the one-argument step has to carry.
-/

namespace Sys2Proof.Machine

/-- The output events of the block (30_encoding.md R102). -/
inductive OutEvent
  /-- The sample of an effective TICK. -/
  | sampleOut (v : Sample)
  /-- `out_en` changed to this level. -/
  | outEn (level : Bool)
  /-- A tone completed. -/
  | done
  /-- A valid digit was decoded: the strobe `digit_valid`. -/
  | digitOut (d : SymCode)
  /-- A rotation was decoded to OFF. "A model-level observation only". -/
  | dropped
  /-- Special-function dwell detection is armed. -/
  | sfArm
  /-- Special-function dwell detection is cancelled. -/
  | sfCancel
  deriving DecidableEq, Repr

/-- Why the machine stops with a fault. The hardware raises no exception (60_exceptions.md R200). -/
inductive Fault
  /-- `ContractViolation(sym)`, "the one fault of the model": raised by TONE when `sym` is not playable,
  and by nothing else (60_exceptions.md R201). Safe: the hardware consumes the word with no effect, and
  a run that contains it is one the spec says nothing about (log 9). -/
  | contractViolation (sym : SymCode)
  deriving DecidableEq, Repr

/-- Why a step has no meaning. -/
inductive Refusal
  /-- Raised by an arm of exec whose instruction has no meaning yet; no arm of this model does. Safe:
  the run stops. -/
  | notModelled (mnemonic : String)
  /-- The fourth outcome of 60_exceptions.md R202, "Not enabled: a command while `busy = 1`; the host has
  no step, the other agents do": exec's answer when INIT or TONE, whose word this is, is asked of a state
  with `busy = 1`. It is no stop of a run: the step applies no operation that is not enabled, and never
  answers this. Safe (log 2). -/
  | notEnabled (w : Word)
  /-- Raised by the step on a reserved stimulus word: "A model refuses a reserved word"
  (30_encoding.md R98). Safe: the hardware ignores such a word (log 10). -/
  | reservedWord (w : Word)
  deriving DecidableEq, Repr

/-- The registers of the DDS engine (10_state.md R21 to R31, R33). The two phases are held as the
unsigned values of PHASE_W-bit registers, because PHASE_W is a parameter; every write reduces modulo
2^PHASE_W (log 6). -/
structure Dds where
  /-- R21: the first phase accumulator, PHASE_W bits. -/
  phaseA : Nat
  /-- R22: the second phase accumulator, PHASE_W bits. -/
  phaseB : Nat
  /-- R23: the step width of tone A. -/
  stepA : StepWidth
  /-- R24: the step width of tone B; 0 means single tone. -/
  stepB : StepWidth
  /-- R25: the output sample. -/
  sampleOut : Sample
  /-- R26: output enable and tick gate. -/
  outEn : Bool
  /-- R27: a TONE is in progress. -/
  busy : Bool
  /-- R28: ticks of the current note so far. -/
  tickCount : TickCount
  /-- R29: the number of ticks the current note lasts. -/
  target : TickCount
  /-- R30: the symbol of the TONE in progress. -/
  curSym : SymCode
  /-- R31: the `dur` operand of the TONE in progress. -/
  durArg : Millis
  /-- R33: the index of the note now playing. -/
  noteIdx : BitVec 2
  deriving DecidableEq, Repr

/-- The registers of the pulse decoder (10_state.md R34 to R38). -/
structure Decoder where
  /-- R34: the dial-active line is at "dialing". -/
  dialing : Bool
  /-- R35: the raw pulse count, saturating. -/
  pulseCount : PulseCount
  /-- R36: the result of the last classification. -/
  digit : SymCode
  /-- R37: the debounce lockout. -/
  dbLock : Bool
  /-- R38: the latched level of the input sf_inhibit. -/
  sfInhibit : Bool
  deriving DecidableEq, Repr

/-- The machine: the registers of the block (R20, R45) and what its step takes and gives. -/
structure State where
  /-- The DDS registers. -/
  dds : Dds
  /-- The decoder registers. -/
  dec : Decoder
  /-- The parameter of the step, constant in every run (00_scope.md R6, 20_memory.md R68, log 4). Not
  state of the block (R20, R40). -/
  config : Config
  /-- The MODEL's own field: the stimulus words that the environment has still to apply, first one
  first (R10, R74, R257, log 1). A command that waits at the command port stands here too: it "is state
  of the host's side of the port" (60_exceptions.md R207, log 2). -/
  stimuli : List Word
  /-- The MODEL's own field: the output events emitted so far, oldest first (R9, R102, log 3). -/
  outputs : List OutEvent
  /-- The MODEL's own field: how many unspecified values have been drawn (log 5). -/
  freeCount : Nat
  deriving DecidableEq, Repr

/-- The DDS registers after RESET, but for `sample_out`, whose value is the argument: "Reset value:
unspecified" (10_state.md R25; the others R21 to R31, R33; 40_dds.md R120). -/
def Dds.afterReset (sample : Sample) : Dds where
  phaseA := 0
  phaseB := 0
  stepA := 0
  stepB := 0
  sampleOut := sample
  outEn := false
  busy := false
  tickCount := 0
  target := 0
  curSym := 31
  durArg := 0
  noteIdx := 0

/-- The decoder registers after RESET (10_state.md R34 to R38; 40_dds.md R120). -/
def Decoder.afterReset : Decoder where
  dialing := false
  pulseCount := 0
  digit := 31
  dbLock := false
  sfInhibit := false

/-- The machine right after reset (70_reset_and_hazards.md R240). `sample_out` holds a value with no
body, the configuration is the one the machine is built with, nothing is pending and nothing has been
emitted (log 1, log 3 to log 5). -/
def State.reset : State where
  dds := Dds.afterReset (Config.unspecifiedSample 0)
  dec := Decoder.afterReset
  config := Config.platform
  stimuli := []
  outputs := []
  freeCount := 1

end Sys2Proof.Machine
end

