-- ==== Sys2Proof/Machine/Flags.lean ====
section
/-!
DEFINITION. The conditions and the output lines of the block. It has no arithmetic condition codes
(10_state.md R42); its one-bit registers are the tick gate, the command handshake and the three bits of
the decoder, and its status leaves it on the output lines of R43.
-/

namespace Sys2Proof.Machine

/-- `cmd_ready = 1 - busy` (10_state.md R43, 30_encoding.md R93). -/
def cmdReady (d : Dds) : Bool := !d.busy

/-- The tick gate: a TICK is effective only when `out_en = 1` (40_dds.md R135, 60_exceptions.md R204). -/
def tickEnabled (d : Dds) : Bool := d.outEn

/-- A PULSE "is qualifying when `db_lock = 0` at the moment it is applied" (41_decoder.md R176). -/
def qualifying (d : Decoder) : Bool := !d.dbLock

/-- A qualifying PULSE is counted "while dialing is active and no special-function mode has already
been entered" (41_decoder.md R177). -/
def counted (d : Decoder) : Bool := d.dialing && !d.sfInhibit

/-- Whether an operation is enabled: a command when `busy = 0`, TICK when `out_en = 1`, every other
line event always (20_memory.md R74, 60_exceptions.md R204). -/
def enabled (i : Instr) (s : State) : Bool :=
  match i with
  | .init | .tone _ _ => cmdReady s.dds
  | .tick => tickEnabled s.dds
  | .diale | .dials | .pulse | .dbrel | .sfinh _ | .reset => true

/-- The output lines that carry a level (10_state.md R43). -/
structure OutputLines where
  cmdReady : Bool
  sample : Sample
  outEn : Bool
  busy : Bool
  digit : SymCode
  deriving DecidableEq, Repr

/-- The levels the block shows its neighbours (10_state.md R43). -/
def outputLines (s : State) : OutputLines where
  cmdReady := cmdReady s.dds
  sample := s.dds.sampleOut
  outEn := s.dds.outEn
  busy := s.dds.busy
  digit := s.dec.digit

/-- The events emitted between two states of one run: what was added to the record of outputs. -/
def emittedSince (before after : State) : List OutEvent :=
  after.outputs.drop before.outputs.length

/-- The output lines that are strobes: each lasts for the one event that emits it
(10_state.md R43, 60_exceptions.md R204). -/
structure Strobes where
  digitValid : Bool
  sfArm : Bool
  sfCancel : Bool
  deriving DecidableEq, Repr

/-- The strobe `digit_valid` is the DigitOut event (10_state.md R43). -/
def isDigitOut (e : OutEvent) : Bool :=
  match e with
  | .digitOut _ => true
  | .sampleOut _ | .outEn _ | .done | .dropped | .sfArm | .sfCancel => false

/-- The strobes of the step that led from one state to the next (10_state.md R43). -/
def strobes (before after : State) : Strobes where
  digitValid := (emittedSince before after).any isDigitOut
  sfArm := (emittedSince before after).any (· == .sfArm)
  sfCancel := (emittedSince before after).any (· == .sfCancel)

end Sys2Proof.Machine
end

