-- ==== Sys2Proof/Machine/Ops.lean ====
section
/-!
DEFINITION. The named operations that the meanings share: reading the constant tables, the sample
datapath, the note list and the sequencer, the digit classifier, the command handshake, the fault, and
the fetch of the next stimulus. The block has no writable memory and no trap: there is no store
(20_memory.md R60), no trap entry and no return from one (60_exceptions.md R200, R208, R209);
`raiseContractViolation` is the model's one fault.
-/

namespace Sys2Proof.Machine

/-- The outcome of an operation of this machine. -/
abbrev Result := Host.Outcome State Fault Refusal

/-! The sample datapath -/

/-- A value as the contents of a phase accumulator: modulo 2^PHASE_W (40_dds.md R136, log 6). -/
def phaseWrap (c : Config) (v : Nat) : Nat := v % 2 ^ phaseWidth c

/-- The phase after one tick: `(phase + step) mod 2^PHASE_W` (40_dds.md R136). -/
def advancePhase (c : Config) (phase : Nat) (step : StepWidth) : Nat :=
  phaseWrap c (phase + step.toNat)

/-- The table index of a phase: `(((phase + 4) mod 2^PHASE_W) >> 3) & 127` (40_dds.md R137). -/
def sineIndex (c : Config) (phase : Nat) : Nat := (phaseWrap c (phase + 4) >>> 3) &&& 127

/-- "A SINE address is always in range" (20_memory.md R70). -/
theorem sineIndex_lt (c : Config) (phase : Nat) : sineIndex c phase < 128 :=
  Nat.lt_succ_of_le Nat.and_le_right

/-- `MemRead(SINE, index, 1)` at the index of a phase (40_dds.md R137, R155). -/
def sineAt (c : Config) (phase : Nat) : Amp := c.sine[sineIndex c phase]'(sineIndex_lt c phase)

/-- sample_b: "If stepB = 0, treat sample_b as 0", whatever the phase (40_dds.md R138). -/
def sampleB (c : Config) (stepB : StepWidth) (phaseB : Nat) : Amp :=
  if stepB = 0 then 0 else sineAt c phaseB

/-- The mixer: `sample_a + (sample_b - (sample_b >> 2))`, exact, 0..223 (40_dds.md R139). -/
def mix (a b : Amp) : Sample := BitVec.ofNat 8 (a.toNat + (b.toNat - (b.toNat >>> 2)))

/-! The note list -/

/-- One note: "a triple (stepA, stepB, ms)" (40_dds.md R131). -/
structure Note where
  stepA : StepWidth
  stepB : StepWidth
  ms : Millis
  deriving DecidableEq, Repr

/-- `TICKS_OF(ms) = ms * TICKS_PER_MS`, exact (40_dds.md R132). -/
def ticksOf (c : Config) (ms : Millis) : Nat := ms.toNat * ticksPerMs c

/-- `NOTES(sym, dur)` (40_dds.md R131): one note of length `dur` for a tonal symbol, the table's list
with stepB 0 for a tune symbol, whose `dur` is not used. The rule defines it for playable symbols; for
the others, which no reachable state asks for, the list is empty (log 8). -/
def notes (c : Config) (sym : SymCode) (dur : Millis) : List Note :=
  match freq c sym, tune c sym with
  | some tone, _ => [⟨tone.stepA, tone.stepB, dur⟩]
  | none, some entries => entries.map fun n => ⟨n.stepA, 0, n.ms⟩
  | none, none => []

/-- A note that takes at least one tick (40_dds.md R134). -/
def sounding (c : Config) (n : Note) : Bool := 0 < ticksOf c n.ms

/-- `NEXT(L, j)`: the least index at or after `j` of a note of non-zero length, `len(L)` when there is
none (40_dds.md R134). -/
def nextNote (c : Config) (l : List Note) (j : Nat) : Nat :=
  min (j + (l.drop j).findIdx (sounding c)) l.length

/-! The sequencer -/

/-- Note `k` becomes the current note: its steps, its target, a tick count of 0
(40_dds.md R130, R143). -/
def loadNote (c : Config) (d : Dds) (k : Nat) (n : Note) : Dds :=
  { d with
    stepA := n.stepA
    stepB := n.stepB
    tickCount := 0
    target := BitVec.ofNat 32 (ticksOf c n.ms)
    noteIdx := BitVec.ofNat 2 k }

/-- A TONE of a playable symbol is accepted: the selection, the enabling and the start of the wait, with
the events it emits (40_dds.md R130). -/
def startTone (c : Config) (d : Dds) (sym : SymCode) (dur : Millis) : Dds × List OutEvent :=
  let l := notes c sym dur
  let k := nextNote c l 0
  let accepted := { d with curSym := sym, durArg := dur }
  match l[k]? with
  | some n => ({ loadNote c accepted k n with outEn := true, busy := true }, [.outEn true])
  | none =>
    ({ accepted with
        stepA := 0
        stepB := 0
        tickCount := 0
        target := 0
        noteIdx := BitVec.ofNat 2 l.length },
      [.done])

/-- The phase update, the lookups, the mix and the sample write of an effective tick, with its
SampleOut (40_dds.md R135 to R139). The single-tone test reads the register `stepB` of the tick. -/
def tickSample (c : Config) (d : Dds) : Dds × List OutEvent :=
  let phaseA := advancePhase c d.phaseA d.stepA
  let phaseB := advancePhase c d.phaseB d.stepB
  let v := mix (sineAt c phaseA) (sampleB c d.stepB phaseB)
  ({ d with phaseA := phaseA, phaseB := phaseB, sampleOut := v }, [.sampleOut v])

/-- The last note of a tone has ended at tick count `count`: "disables output and zeroes both step
widths" (40_dds.md R144). `len` is the length of the note list. -/
def completeTone (d : Dds) (count len : Nat) : Dds × List OutEvent :=
  ({ d with
      stepA := 0
      stepB := 0
      outEn := false
      busy := false
      tickCount := BitVec.ofNat 32 count
      noteIdx := BitVec.ofNat 2 len },
    [.outEn false, .done])

/-- The counter step of an effective tick, and the note change or the completion when the note ends
(40_dds.md R140, R143, R144). -/
def tickCounter (c : Config) (d : Dds) : Dds × List OutEvent :=
  let count := d.tickCount.toNat + 1
  if count < d.target.toNat then
    ({ d with tickCount := BitVec.ofNat 32 count }, [])
  else
    let l := notes c d.curSym d.durArg
    let k := nextNote c l (d.noteIdx.toNat + 1)
    match l[k]? with
    | some n => (loadNote c d k n, [])
    | none => completeTone d count l.length

/-- One effective tick: the sample, then the counter (40_dds.md R135). -/
def effectiveTick (c : Config) (d : Dds) : Dds × List OutEvent :=
  let sampled := tickSample c d
  let stepped := tickCounter c sampled.1
  (stepped.1, sampled.2 ++ stepped.2)

/-- The DDS engine's idle condition with both phases 0, the synthesizer init (40_dds.md R121). -/
def initDds (d : Dds) : Dds :=
  { d with
    phaseA := 0
    phaseB := 0
    stepA := 0
    stepB := 0
    outEn := false
    tickCount := 0
    target := 0
    noteIdx := 0 }

/-! The digit classifier -/

/-- `MAP(c)` for a count in 1..10 (41_decoder.md R173). -/
def mapCount (p : MapPolicy) (count : Nat) : Nat :=
  match p with
  | .standard => count % 10
  | .reversed => (10 - count) % 10
  | .offset => count - 1

/-- `CLASSIFY(c)`: MAP of a count in 1..10, OFF for every other count (41_decoder.md R172). -/
def classify (p : MapPolicy) (count : PulseCount) : SymCode :=
  if 1 ≤ count.toNat ∧ count.toNat ≤ 10 then BitVec.ofNat 5 (mapCount p count.toNat) else offCode

/-- The pulse counter after one counted pulse: `min(pulse_count + 1, 2^CNT_W - 1)`
(41_decoder.md R177, R181). -/
def countPulse (count : PulseCount) : PulseCount := BitVec.ofNat 8 (min (count.toNat + 1) 255)

/-! Updates of the machine -/

/-- New DDS registers, and what the operation emitted (00_scope.md R9, R10). -/
def State.applyDds (s : State) (r : Dds × List OutEvent) : State :=
  { s with dds := r.1, outputs := s.outputs ++ r.2 }

/-- New decoder registers, and what the operation emitted (00_scope.md R9, R10). -/
def State.applyDec (s : State) (r : Decoder × List OutEvent) : State :=
  { s with dec := r.1, outputs := s.outputs ++ r.2 }

/-- The stimulus words still to apply. -/
def State.withStimuli (s : State) (ws : List Word) : State := { s with stimuli := ws }

/-- The command port handshake: a command takes effect only when `busy = 0`; "While `busy = 1` a
presented command is neither applied nor dropped: it waits, and the host agent has no step until `busy`
falls" (30_encoding.md R93), so the command is not enabled, an outcome of its own (60_exceptions.md
R202(4), log 2). -/
def commandPort (i : Instr) (s : State) (effect : State → Result) : Result :=
  if cmdReady s.dds then effect s else .refused (.notEnabled (encode i))

/-- "the model raises `ContractViolation(sym)`, a fault that marks the run" (40_dds.md R133,
60_exceptions.md R201). -/
def raiseContractViolation (sym : SymCode) : Result := .fault (.contractViolation sym)

/-- RESET of the whole block (40_dds.md R120). `sample_out` takes an unspecified value (log 5), OutEn(0)
is emitted if `out_en` was 1, and a waiting command is not cancelled. -/
def State.resetBlock (s : State) : State :=
  { s with
    dds := Dds.afterReset (Config.unspecifiedSample s.freeCount)
    dec := Decoder.afterReset
    freeCount := s.freeCount + 1
    outputs := s.outputs ++ if s.dds.outEn then [.outEn false] else [] }

/-! The next stimulus -/

/-- Whether the agent of a stimulus word has a step: "Line events are never held back by `busy`", and the
host, whose words are the command words, has none until `busy` falls (30_encoding.md R91, R93). -/
def agentEnabled (d : Dds) (w : Word) : Bool := cmdReady d || !isCommandWord w

/-- The first word of a list whose agent is enabled, with the words that are left, in their order. -/
def takeEnabled (d : Dds) (words : List Word) : Option (Word × List Word) :=
  match words with
  | [] => none
  | w :: rest =>
    if agentEnabled d w then some (w, rest)
    else (takeEnabled d rest).map fun (taken, left) => (taken, w :: left)

/-- The next stimulus word, with the state that is left once it is taken: the first pending word whose
agent is enabled (20_memory.md R74, 60_exceptions.md R207, log 1, log 2). A command that waits keeps its
place, so that it "is accepted in the first state with `busy = 0`" (D16). None when no agent has an
enabled event. -/
def State.nextStimulus (s : State) : Option (Word × State) :=
  (takeEnabled s.dds s.stimuli).map fun (w, rest) => (w, s.withStimuli rest)

/-- `s` with a word put in front of the pending ones. -/
def State.putStimulus (s : State) (w : Word) : State := s.withStimuli (w :: s.stimuli)

/-- The command port as the host drives it: `cmd` while `cmd_valid = 1`, none while `cmd_valid = 0`
(10_state.md R43). The host presents its command when the command is the next pending word. -/
def State.presentedCommand (s : State) : Option Word := s.stimuli.head?.filter isCommandWord

end Sys2Proof.Machine
end

