-- ==== Sys2Proof/Machine/DdsEngine.lean ====
section
/-!
DEFINITION. The meanings of the DDS engine's operations RESET, INIT, TONE and TICK (40_dds.md).
-/

namespace Sys2Proof.Machine

/-- RESET: every register to its reset value, in every state, `busy = 1` included (40_dds.md R120). -/
def execReset (s : State) : Result := .next s.resetBlock

/-- INIT: both phases 0 and the sequencer idle. "It touches no decoder register", `sample_out`,
`cur_sym` or `dur_arg`, and emits nothing (40_dds.md R121). It is not enabled while `busy = 1`
(R93). -/
def execInit (s : State) : Result :=
  commandPort .init s fun s => .next (s.applyDds (initDds s.dds, []))

/-- TONE sym, dur (40_dds.md R130). It is not enabled while `busy = 1` (30_encoding.md R93), and an
unplayable symbol is a contract violation (40_dds.md R133). -/
def execTone (sym : SymCode) (dur : Millis) (s : State) : Result :=
  commandPort (.tone sym dur) s fun s =>
    if playable s.config sym then .next (s.applyDds (startTone s.config s.dds sym dur))
    else raiseContractViolation sym

/-- TICK: "when `out_en = 0` a TICK has no effect at all"; otherwise one effective tick
(40_dds.md R135). -/
def execTick (s : State) : Result :=
  if tickEnabled s.dds then .next (s.applyDds (effectiveTick s.config s.dds)) else .next s

end Sys2Proof.Machine
end

