-- ==== Sys2Proof/Machine/PulseDecoder.lean ====
section
/-!
DEFINITION. The meanings of the pulse decoder's operations DIALS, PULSE, DBREL, SFINH and DIALE
(41_decoder.md). None of them reads or writes a DDS register (10_state.md R45).
-/

namespace Sys2Proof.Machine

/-- DIALS arms pulse counting and resets the count; when already dialing it has no effect
(41_decoder.md R174, R175). -/
def execDials (s : State) : Result :=
  if s.dec.dialing then .next s
  else .next (s.applyDec ({ s.dec with dialing := true, pulseCount := 0 }, [.sfArm]))

/-- PULSE: a bounce has no effect; a qualifying edge sets the lock, cancels dwell detection while
dialing, and is counted while dialing and not inhibited (41_decoder.md R176, R177). -/
def execPulse (s : State) : Result :=
  if qualifying s.dec then
    .next (s.applyDec (
      { s.dec with
        dbLock := true
        pulseCount := if counted s.dec then countPulse s.dec.pulseCount else s.dec.pulseCount },
      if s.dec.dialing then [.sfCancel] else []))
  else .next s

/-- DBREL ends the debounce lockout (41_decoder.md R178). -/
def execDbrel (s : State) : Result := .next (s.applyDec ({ s.dec with dbLock := false }, []))

/-- SFINH lvl latches the level of sf_inhibit (41_decoder.md R179). -/
def execSfinh (lvl : Bool) (s : State) : Result :=
  .next (s.applyDec ({ s.dec with sfInhibit := lvl }, []))

/-- DIALE classifies the count and hands the digit out; at rest it has no effect
(41_decoder.md R180, R175). -/
def execDiale (s : State) : Result :=
  if s.dec.dialing then
    let d := classify s.config.mapPolicy s.dec.pulseCount
    .next (s.applyDec (
      { s.dec with dialing := false, digit := d },
      [.sfCancel, if d = offCode then .dropped else .digitOut d]))
  else .next s

end Sys2Proof.Machine
end

