-- ==== Sys2Proof/Machine/Dispatch.lean ====
section
/-!
DEFINITION. The meaning of each operation, one arm for each constructor (30_encoding.md R90).
-/

namespace Sys2Proof.Machine

def exec (i : Instr) (s : State) : Host.Outcome State Fault Refusal :=
  match i with
  | .init => Sys2Proof.Machine.execInit s
  | .tone sym dur => Sys2Proof.Machine.execTone sym dur s
  | .tick => Sys2Proof.Machine.execTick s
  | .diale => Sys2Proof.Machine.execDiale s
  | .dials => Sys2Proof.Machine.execDials s
  | .pulse => Sys2Proof.Machine.execPulse s
  | .dbrel => Sys2Proof.Machine.execDbrel s
  | .sfinh lvl => Sys2Proof.Machine.execSfinh lvl s
  | .reset => Sys2Proof.Machine.execReset s

end Sys2Proof.Machine
end

