-- ==== Sys2Proof/Machine/Step.lean ====
section
/-!
DEFINITION. One step: the next stimulus word is taken, decoded and applied, atomically
(00_scope.md R10, 20_memory.md R71, R74).
-/

namespace Sys2Proof.Machine

/-- One step. When no agent has an enabled event nothing happens and the state is the same: the block acts
on events only (00_scope.md R10, log 1). A reserved word is refused when its turn comes
(30_encoding.md R98, log 10). -/
def step (s : State) : Host.Outcome State Fault Refusal :=
  match s.nextStimulus with
  | none => .next s
  | some (w, rest) =>
    match decode w with
    | .ok i => exec i rest
    | .error _ => .refused (.reservedWord w)

/-- `s` with the stimulus word of a table row's bits as its next event (log 1). -/
def State.withFetchWord (s : State) (nbits w : Nat) : State :=
  s.putStimulus (stimulusOf nbits w)

end Sys2Proof.Machine
end

