-- ==== Sys2Proof/Machine/Trace.lean ====
section
/-!
DEFINITION. Sequences of operations: the pseudo-operations (30_encoding.md R101), the length of a tone
(40_dds.md R146), the application of several operations in one total order (20_memory.md R74), and the
notation of traces (30_encoding.md R100).
-/

namespace Sys2Proof.Machine

/-- Operations applied one after another, in the order of the list, up to the first that does not answer
a next state (20_memory.md R74, 60_exceptions.md R202). -/
def execAll (ops : List Instr) (s : State) : Result :=
  match ops with
  | [] => .next s
  | i :: rest =>
    match exec i s with
    | .next t => execAll rest t
    | .fault f => .fault f
    | .refused r => .refused r

/-- `T(sym, dur)`: the ticks of a tone, summed over its notes (40_dds.md R146). -/
def toneLength (c : Config) (sym : SymCode) (dur : Millis) : Nat :=
  ((notes c sym dur).map fun n => ticksOf c n.ms).sum

/-- `TICKS n` (30_encoding.md R101). -/
def ticks (n : Nat) : List Instr := List.replicate n .tick

/-- `ROTATE k`: "a clean rotation of the dial that produces k pulses" (30_encoding.md R101). -/
def rotate (k : Nat) : List Instr :=
  .dials :: ((List.replicate k [Instr.pulse, .dbrel]).flatten ++ [.diale])

/-- `PLAY sym, dur`: the TONE and all the ticks it needs (30_encoding.md R101). -/
def play (c : Config) (sym : SymCode) (dur : Millis) : List Instr :=
  .tone sym dur :: ticks (toneLength c sym dur)

/-- `BOUNCE j`: "one real edge followed by j - 1 contact bounces" (30_encoding.md R101). -/
def bounce (j : Nat) : List Instr := List.replicate j .pulse

/-- The name of a symbol in a trace, `#n` for a code that names none (30_encoding.md R95, R100). -/
def symbolName (code : SymCode) : String :=
  match symbolOf code with
  | .dtmf row =>
    if row.val < 10 then toString row.val else if row.val = 10 then "STAR" else "POUND"
  | .mf row =>
    if row.val < 10 then "MF" ++ toString row.val else if row.val = 10 then "MFKP" else "MFST"
  | .sup2600 => "SUP2600"
  | .beep => "BEEP"
  | .beepLow => "BEEP_LOW"
  | .tuneAsc => "TUNE_ASC"
  | .tuneDesc => "TUNE_DESC"
  | .off => "OFF"
  | .reserved => "#" ++ toString code.toNat

/-- An operation as a line of a trace: "the mnemonic in capitals, then its operands separated by a
comma" (30_encoding.md R100). -/
def traceLine (i : Instr) : String :=
  match i with
  | .tone sym dur => mnemonicOf i ++ " " ++ symbolName sym ++ ", " ++ toString dur.toNat
  | .sfinh lvl => mnemonicOf i ++ " " ++ if lvl then "1" else "0"
  | .init | .tick | .diale | .dials | .pulse | .dbrel | .reset => mnemonicOf i

end Sys2Proof.Machine
end

