-- ==== Sys2Proof/Safety.lean ====
section
/-!
DEFINITION. What the claims mean by a consistent state, a safe outcome and the end of a run.
-/

namespace Sys2Proof.Machine

/-- "A run is quiescent when its end state has `busy = 0`" (70_reset_and_hazards.md R257). -/
def Quiescent (s : State) : Prop := s.dds.busy = false

/-- An outcome that is no contract violation: "every claim about a run takes 'no ContractViolation
raised' as a premise" (60_exceptions.md R201). -/
def NoContractViolation (r : Result) : Prop := ∀ sym, r ≠ .fault (.contractViolation sym)

/-- Everything the environment has still to apply is an operation within the host's contract
(60_exceptions.md R214, 30_encoding.md R98). -/
def PendingWithinContract (s : State) : Prop :=
  ∀ w ∈ s.stimuli, ∃ i, decode w = .ok i ∧ withinContract s.config i = true

/-- The note that the sequencer is playing is a note of the tone in progress (40_dds.md R154): the steps
and the target are the note's, and its last tick is still to come (R150). -/
structure PlayingNote (c : Config) (d : Dds) (n : Note) : Prop where
  symbol_playable : playable c d.curSym = true
  note_listed : (notes c d.curSym d.durArg)[d.noteIdx.toNat]? = some n
  stepA_eq : d.stepA = n.stepA
  stepB_eq : d.stepB = n.stepB
  target_eq : d.target.toNat = ticksOf c n.ms
  count_lt : d.tickCount.toNat < d.target.toNat

/-- The DDS registers are as every reachable state has them. -/
structure DdsConsistent (c : Config) (d : Dds) : Prop where
  /-- `phaseA` fits PHASE_W bits (10_state.md R21). -/
  phaseA_lt : d.phaseA < 2 ^ phaseWidth c
  /-- `phaseB` fits PHASE_W bits (10_state.md R22). -/
  phaseB_lt : d.phaseB < 2 ^ phaseWidth c
  /-- `busy = out_en` (40_dds.md R149). -/
  busy_eq_outEn : d.busy = d.outEn
  /-- `busy = 0` implies both steps are 0 (40_dds.md R148). -/
  idle_steps : d.busy = false → d.stepA = 0 ∧ d.stepB = 0
  /-- `tick_count <= target` (40_dds.md R150). -/
  count_le : d.tickCount.toNat ≤ d.target.toNat
  /-- While busy, the sequencer plays a note of the tone in progress (40_dds.md R150, R154). -/
  playing : d.busy = true → ∃ n, PlayingNote c d n

/-- "`digit` is always in {0..9, 31}" (41_decoder.md R183). -/
def DigitInRange (d : Decoder) : Prop := d.digit.toNat ≤ 9 ∨ d.digit = 31

/-- The payload of an output event is in the range 30_encoding.md R102 gives it: samples 0..223, decoded
digits 0..9. -/
def EventInRange (e : OutEvent) : Prop :=
  match e with
  | .sampleOut v => v.toNat ≤ 223
  | .digitOut d => d.toNat ≤ 9
  | .outEn _ | .done | .dropped | .sfArm | .sfCancel => True

/-- The invariant of every run: the DDS registers are consistent, and the decoded digit and the emitted
events are in range. -/
structure State.Consistent (s : State) : Prop where
  dds_consistent : DdsConsistent s.config s.dds
  digit_inRange : DigitInRange s.dec
  outputs_inRange : ∀ e ∈ s.outputs, EventInRange e

end Sys2Proof.Machine
end

