-- ==== Sys2Proof/Certificates/Slice0/Obligations.lean ====
section
/-!
DEFINITION. The statements for the provers. Each says what rule of spec/ it formalises. They hold for
every configuration, since `State.config` ranges over all of them, and in every state unless a premise
says otherwise.
-/

open Sys2Proof Sys2Proof.Machine

/-! ## Words the statements use -/

namespace Sys2Proof.Claims

/-- The rounded table slot of a phase, wrapped to the table's period (40_dds.md R137): plain division. -/
def slotOf (phase : Nat) : Nat := (phase + 4) / 8 % 128

/-- The entry of the waveform table in a slot. -/
def amplitude (c : Config) (slot : Nat) : Nat := (c.sine.toList.getD slot 0).toNat

/-- A phase after one tick (40_dds.md R136). -/
def nextPhase (c : Config) (phase : Nat) (step : StepWidth) : Nat :=
  (phase + step.toNat) % 2 ^ (10 + c.phaseExtra)

/-- The sample of an effective tick (40_dds.md R136 to R139): tone A at full weight, tone B at three
quarters, rounded up, and no tone B when the register stepB is 0. -/
def sampleOfTick (c : Config) (d : Dds) : Nat :=
  amplitude c (slotOf (nextPhase c d.phaseA d.stepA)) +
    if d.stepB = 0 then 0
    else (3 * amplitude c (slotOf (nextPhase c d.phaseB d.stepB)) + 3) / 4

/-- The index `k` of the first note of non-zero length at or after `j`, with the note
(40_dds.md R134). -/
def FirstSounding (c : Config) (l : List Note) (j k : Nat) (n : Note) : Prop :=
  j ≤ k ∧ l[k]? = some n ∧ 0 < ticksOf c n.ms ∧
    ∀ i m, j ≤ i → i < k → l[i]? = some m → ticksOf c m.ms = 0

/-- No note at or after `j` has a non-zero length (40_dds.md R134). -/
def NoneSounding (c : Config) (l : List Note) (j : Nat) : Prop :=
  ∀ i m, j ≤ i → l[i]? = some m → ticksOf c m.ms = 0

/-- The operations of the DDS engine but RESET (10_state.md R45). -/
def isDdsOp (i : Instr) : Bool :=
  match i with
  | .init | .tone _ _ | .tick => true
  | .diale | .dials | .pulse | .dbrel | .sfinh _ | .reset => false

/-- The operations of the decoder but RESET (10_state.md R45). -/
def isDecoderOp (i : Instr) : Bool :=
  match i with
  | .diale | .dials | .pulse | .dbrel | .sfinh _ => true
  | .init | .tone _ _ | .tick | .reset => false

/-- The output events of the DDS engine (30_encoding.md R102). -/
def isDdsEvent (e : OutEvent) : Bool :=
  match e with
  | .sampleOut _ | .outEn _ | .done => true
  | .digitOut _ | .dropped | .sfArm | .sfCancel => false

/-- The SampleOut events. -/
def isSample (e : OutEvent) : Bool :=
  match e with
  | .sampleOut _ => true
  | .outEn _ | .done | .digitOut _ | .dropped | .sfArm | .sfCancel => false

/-- The level of an OutEn event. -/
def outEnLevel (e : OutEvent) : Option Bool :=
  match e with
  | .outEn b => some b
  | .sampleOut _ | .done | .digitOut _ | .dropped | .sfArm | .sfCancel => none

/-- The event of a decoded digit: DigitOut, or Dropped for OFF (41_decoder.md R180). -/
def digitEvent (d : SymCode) : OutEvent := if d = 31 then .dropped else .digitOut d

/-- The digit of a count: one row of the table under 41_decoder.md R173, OFF beyond its end. -/
def digitOfCount (p : MapPolicy) (count : Nat) : SymCode :=
  match p with
  | .standard => [31, 1, 2, 3, 4, 5, 6, 7, 8, 9, 0].getD count 31
  | .reversed => [31, 9, 8, 7, 6, 5, 4, 3, 2, 1, 0].getD count 31
  | .offset => [31, 0, 1, 2, 3, 4, 5, 6, 7, 8, 9].getD count 31

/-- `P(s)`: the ticks after which a phase that a constant step `s` advances returns modulo 1024
(40_dds.md R145). -/
def period (step : StepWidth) : Nat := 1024 / Nat.gcd 1024 step.toNat

/-- Two machines that differ in PHASE_W only: the phases agree modulo the table's period of 1024, and
everything else is the same (40_dds.md R141). `sample_out` is left out, because after RESET it "must not"
be compared (70_reset_and_hazards.md R254, log 5), and the emitted samples are compared instead. -/
structure SameButPhaseWidth (s t : State) : Prop where
  config_eq : { t.config with phaseExtra := s.config.phaseExtra } = s.config
  dds_eq :
    { t.dds with
      phaseA := s.dds.phaseA, phaseB := s.dds.phaseB, sampleOut := s.dds.sampleOut } = s.dds
  phaseA_mod : t.dds.phaseA % 1024 = s.dds.phaseA % 1024
  phaseB_mod : t.dds.phaseB % 1024 = s.dds.phaseB % 1024
  dec_eq : t.dec = s.dec
  stimuli_eq : t.stimuli = s.stimuli
  outputs_eq : t.outputs = s.outputs

end Sys2Proof.Claims

open Sys2Proof.Claims

/-! ## Encoding -/

/-- Words the spec writes out decode to their operations (30_encoding.md R97, 95_test_vectors.md
V-ENC). -/
def Obligations.SpecWordsDecode : Prop :=
  decode 0x10000000 = .ok .init ∧ decode 0x20050064 = .ok (.tone 5 100) ∧
  decode 0x201805DC = .ok (.tone 24 1500) ∧ decode 0x80000000 = .ok .tick ∧
  decode 0x90000000 = .ok .diale ∧ decode 0x90000001 = .ok .dials ∧
  decode 0xA0000000 = .ok .pulse ∧ decode 0xB0000000 = .ok .dbrel ∧
  decode 0xC0000001 = .ok (.sfinh true) ∧ decode 0xF0000000 = .ok .reset

/-- Decoding the word of an operation gives the operation back, every operand at every value
(30_encoding.md R92, R94, R97). -/
def Obligations.DecodeEncodeAgree : Prop := ∀ i : Instr, decode (encode i) = .ok i

/-- A word that decodes is the word of what it decodes to: no bit is dropped (30_encoding.md R92,
R97). -/
def Obligations.EncodeDecodeAgree : Prop :=
  ∀ (w : Word) (i : Instr), decode w = .ok i → encode i = w

/-- A word decodes exactly when it is well formed: its class is defined and its unnamed bits are 0
(30_encoding.md R92, R98). -/
def Obligations.DecodesExactlyWellFormedWords : Prop :=
  ∀ w : Word, (∃ i, decode w = .ok i) ↔ wellFormedWord w = true

/-- Decoding follows the opcode map (30_encoding.md R97): a word decodes to an operation of a row that
selects it, with the operand fields of that row; a word that some row selects decodes; the rows are
disjoint; and TONE 5, 100 is 0x20050064. -/
def Obligations.DecodeFollowsOpcodeMap : Prop :=
  (∀ (w : Word) (i : Instr), decode w = .ok i →
    (∃ r ∈ opcodeRows, r.mnemonic = mnemonicOf i ∧ w &&& r.mask = r.pattern) ∧
    (∀ sym dur, i = .tone sym dur → sym = w.extractLsb' 16 5 ∧ dur = w.extractLsb' 0 16) ∧
    (∀ lvl, i = .sfinh lvl → lvl = w.getLsbD 0)) ∧
  (∀ w : Word, (∃ r ∈ opcodeRows, w &&& r.mask = r.pattern) → ∃ i, decode w = .ok i) ∧
  (∀ w : Word, ∀ r ∈ opcodeRows, ∀ q ∈ opcodeRows,
    w &&& r.mask = r.pattern → w &&& q.mask = q.pattern → r = q) ∧
  encode (.tone 5 100) = 0x20050064

/-- A trace stores the words least significant byte first, and reads back as the operations written
(20_memory.md R69). -/
def Obligations.TraceBytesRoundTrip : Prop :=
  (∀ w : Word, (bytesOfWord w).map BitVec.toNat =
    [w.toNat % 256, w.toNat / 256 % 256, w.toNat / 65536 % 256, w.toNat / 16777216]) ∧
  (∀ (i : Instr) (rest : List Byte),
    decodeBytes (bytesOfWord (encode i) ++ rest) = .ok (i, rest))

/-! ## The step -/

/-- A step runs the decoded stimulus. The first pending word is taken when it is a line event or
`busy = 0`; while `busy = 1` the first line event behind commands is, and the commands keep their places.
The step adds nothing but taking the word (20_memory.md R74, 30_encoding.md R93; that the pending words
are a field of State is the model's choice, log 1, log 2). -/
def Obligations.StepRunsDecodedStimulus : Prop :=
  (∀ (s : State) (w : Word) (rest : List Word) (i : Instr),
    s.stimuli = w :: rest → decode w = .ok i → isCommand i = false ∨ s.dds.busy = false →
      step s = exec i { s with stimuli := rest }) ∧
  (∀ (s : State) (before after : List Word) (w : Word) (i : Instr), s.dds.busy = true →
    (∀ v ∈ before, isCommandWord v = true) → s.stimuli = before ++ w :: after →
    decode w = .ok i → isCommand i = false →
      step s = exec i { s with stimuli := before ++ after })

/-- A step leaves the state as it is when no event is enabled: with no stimulus pending, and with nothing
but commands pending while `busy = 1` (the model's choice, log 1, log 2: the block acts on events only,
00_scope.md R10). -/
def Obligations.StepIdlesWithoutStimulus : Prop :=
  (∀ s : State, s.stimuli = [] → step s = .next s) ∧
  (∀ s : State, s.dds.busy = true → (∀ v ∈ s.stimuli, isCommandWord v = true) →
    step s = .next s)

/-- The word of an operation put where the step fetches is what the next step runs, in every state in
which the operation's agent has a step: a line event always, a command at `busy = 0` (the model's fetch,
log 1; 30_encoding.md R93). -/
def Obligations.FetchWordRunsNext : Prop :=
  ∀ (s : State) (i : Instr), isCommand i = false ∨ s.dds.busy = false →
    step (s.withFetchWord 32 (encode i).toNat) = exec i s

/-- A reserved word is refused by its own value when its turn comes, and a step refuses nothing else
(30_encoding.md R98, 60_exceptions.md R202). When its turn comes is the model's choice: the first pending
word's comes at once, but for a word of a command class, which the host holds on the port like every
command while `busy = 1`, and which the line events behind it pass (log 2, log 10). -/
def Obligations.ReservedWordsRefused : Prop :=
  (∀ (s : State) (w : Word) (rest : List Word), s.stimuli = w :: rest →
    isCommandWord w = false ∨ s.dds.busy = false → wellFormedWord w = false →
      step s = .refused (.reservedWord w)) ∧
  (∀ (s : State) (before after : List Word) (w : Word), s.dds.busy = true →
    (∀ v ∈ before, isCommandWord v = true) → s.stimuli = before ++ w :: after →
    isCommandWord w = false → wellFormedWord w = false →
      step s = .refused (.reservedWord w)) ∧
  (∀ (s : State) (r : Refusal), step s = .refused r →
    ∃ w, r = .reservedWord w ∧ wellFormedWord w = false ∧ w ∈ s.stimuli)

/-! ## RESET and INIT -/

/-- The state after reset has every register at the value the spec gives it: every one but `sample_out`
(70_reset_and_hazards.md R240). That nothing is pending and nothing has been emitted is the model's
choice (log 1, log 3). -/
def Obligations.ResetStateValues : Prop :=
  (∃ v, State.reset.dds =
    { phaseA := 0, phaseB := 0, stepA := 0, stepB := 0, sampleOut := v, outEn := false,
      busy := false, tickCount := 0, target := 0, curSym := 31, durArg := 0, noteIdx := 0 }) ∧
  State.reset.dec =
    { dialing := false, pulseCount := 0, digit := 31, dbLock := false, sfInhibit := false } ∧
  State.reset.stimuli = [] ∧ State.reset.outputs = []

/-- RESET, in every state, puts every register to its reset value, `sample_out` to an unspecified one,
and emits OutEn(0) if `out_en` was 1, nothing else: no Done, and the pending words, a waiting
command among them, are kept (40_dds.md R120). -/
def Obligations.ResetRestoresRegisters : Prop :=
  ∀ s : State, ∃ v k, exec .reset s = .next
    { s with
      dds :=
        { phaseA := 0, phaseB := 0, stepA := 0, stepB := 0, sampleOut := v, outEn := false,
          busy := false, tickCount := 0, target := 0, curSym := 31, durArg := 0, noteIdx := 0 }
      dec :=
        { dialing := false, pulseCount := 0, digit := 31, dbLock := false, sfInhibit := false }
      outputs := s.outputs ++ if s.dds.outEn then [.outEn false] else []
      freeCount := k }

/-- INIT at `busy = 0` zeroes both phases, both steps, `out_en`, `tick_count`, `target` and `note_idx`,
and changes and emits nothing else; at `busy = 1` it is not accepted: it has no next state
(40_dds.md R121). -/
def Obligations.InitIdlesTheEngine : Prop :=
  (∀ s : State, s.dds.busy = false → exec .init s = .next
    { s with dds :=
      { s.dds with
        phaseA := 0, phaseB := 0, stepA := 0, stepB := 0, outEn := false, tickCount := 0,
        target := 0, noteIdx := 0 } }) ∧
  (∀ s t : State, s.dds.busy = true → exec .init s ≠ .next t)

/-- The command port (30_encoding.md R93): while `busy = 1` a command is not enabled, with its word as
the reason; no step at `busy = 1` takes, drops, adds or reorders a pending command, and a command that is
on the port stays there; a line event is never held back, and no operation touches the pending words.
That "not enabled" is a value of Refusal, and that the pending words are a list of State, are the model's
choices (log 2). -/
def Obligations.CommandsWaitWhileBusy : Prop :=
  (∀ (i : Instr) (s : State), isCommand i = true → s.dds.busy = true →
    exec i s = .refused (.notEnabled (encode i))) ∧
  (∀ s t : State, s.dds.busy = true → step s = .next t →
    t.stimuli.filter isCommandWord = s.stimuli.filter isCommandWord ∧
    ∀ c, s.presentedCommand = some c → t.presentedCommand = some c) ∧
  (∀ (i : Instr) (s : State), isCommand i = false →
    ∃ t, exec i s = .next t ∧ t.stimuli = s.stimuli)

/-! ## TONE -/

/-- The playable codes (30_encoding.md R96): 0..11 and 25..28 always, 12..24 when MF_SUPPORTED, no
other; they are the codes with an entry in FREQ or TUNE; and playability alone decides whether a TONE
presented at `busy = 0` is executed. -/
def Obligations.PlayableCodes : Prop :=
  (∀ (c : Config) (code : SymCode),
    (playable c code = true ↔
      code.toNat ≤ 11 ∨ (25 ≤ code.toNat ∧ code.toNat ≤ 28) ∨
        (12 ≤ code.toNat ∧ code.toNat ≤ 24 ∧ c.mfSupported = true)) ∧
    (playable c code = true ↔ (freq c code).isSome = true ∨ (tune c code).isSome = true)) ∧
  (∀ (s : State) (sym : SymCode) (dur : Millis), s.dds.busy = false →
    ((∃ t, exec (.tone sym dur) s = .next t) ↔ playable s.config sym = true))

/-- The constraints on the tables: single-tone symbols have stepB 0, DTMF and MF symbols have stepB
other than 0 (20_memory.md R64), tune lists have 1 to 3 entries and TUNE_ASC has 3 (R66). -/
def Obligations.TableConstraints : Prop :=
  (∀ (c : Config) (code : SymCode) (tone : ToneSpec), freq c code = some tone →
    (code.toNat < 24 → tone.stepB ≠ 0) ∧ (24 ≤ code.toNat → tone.stepB = 0)) ∧
  (∀ (c : Config) (code : SymCode) (l : List TuneNote), tune c code = some l →
    1 ≤ l.length ∧ l.length ≤ 3) ∧
  (∀ c : Config, ∃ l, tune c 27 = some l ∧ l.length = 3)

/-- NOTES (40_dds.md R131): the symbol's ToneSpec for the whole duration of a tonal symbol; the table's
notes with stepB 0 for a tune symbol, whatever `dur` is. "That BEEP and BEEP_LOW are one-note tonal
symbols that honour `dur`, and that tunes ignore `dur`, is the spec's reading of a text that does not say
it" (R131). -/
def Obligations.NotesOfSymbol : Prop :=
  (∀ (c : Config) (sym : SymCode) (dur : Millis) (tone : ToneSpec), freq c sym = some tone →
    notes c sym dur = [{ stepA := tone.stepA, stepB := tone.stepB, ms := dur }]) ∧
  (∀ (c : Config) (sym : SymCode) (dur : Millis) (l : List TuneNote), tune c sym = some l →
    (notes c sym dur).length = l.length ∧
    ∀ (i : Nat) (n : TuneNote), l[i]? = some n →
      (notes c sym dur)[i]? = some { stepA := n.stepA, stepB := 0, ms := n.ms })

/-- TICKS_OF is the exact product, and it fits the 32-bit tick counter (40_dds.md R132). -/
def Obligations.TicksOfIsExactAndFits : Prop :=
  ∀ (c : Config) (ms : Millis),
    ticksOf c ms = ms.toNat * ticksPerMs c ∧ ticksOf c ms < 2 ^ 32 ∧ 1 ≤ ticksPerMs c

/-- NEXT (40_dds.md R134): the least index at or after `j` of a note of non-zero length, or the length
of the list. -/
def Obligations.NextIsFirstSoundingNote : Prop :=
  ∀ (c : Config) (l : List Note) (j : Nat),
    (∀ k n, FirstSounding c l j k n → nextNote c l j = k) ∧
    (NoneSounding c l j → nextNote c l j = l.length) ∧
    (nextNote c l j < l.length → ∃ n, FirstSounding c l j (nextNote c l j) n)

/-- TONE of a playable symbol at `busy = 0` whose first note of non-zero length is note `k`: that note's
steps and target, a tick count of 0, output enabled, busy, OutEn(1), and nothing else written: not the
phases, not `sample_out`, no decoder register (40_dds.md R130). -/
def Obligations.ToneStartsFirstNote : Prop :=
  ∀ (s : State) (sym : SymCode) (dur : Millis) (k : Nat) (n : Note),
    s.dds.busy = false → playable s.config sym = true →
    FirstSounding s.config (notes s.config sym dur) 0 k n →
    exec (.tone sym dur) s = .next
      { s with
        dds :=
          { s.dds with
            stepA := n.stepA, stepB := n.stepB, tickCount := 0,
            target := BitVec.ofNat 32 (n.ms.toNat * ticksPerMs s.config),
            noteIdx := BitVec.ofNat 2 k, curSym := sym, durArg := dur, outEn := true,
            busy := true }
        outputs := s.outputs ++ [.outEn true] }

/-- TONE of a playable symbol at `busy = 0` all of whose notes have zero length completes at once: steps
and target 0, `note_idx` at the length of the list, Done and no OutEn (40_dds.md R130). -/
def Obligations.SilentToneCompletesAtOnce : Prop :=
  ∀ (s : State) (sym : SymCode) (dur : Millis),
    s.dds.busy = false → playable s.config sym = true →
    NoneSounding s.config (notes s.config sym dur) 0 →
    exec (.tone sym dur) s = .next
      { s with
        dds :=
          { s.dds with
            stepA := 0, stepB := 0, tickCount := 0, target := 0,
            noteIdx := BitVec.ofNat 2 (notes s.config sym dur).length, curSym := sym,
            durArg := dur }
        outputs := s.outputs ++ [.done] }

/-- ContractViolation (40_dds.md R133, 60_exceptions.md R201): an accepted TONE of an unplayable symbol
raises it with the symbol, nothing else raises a fault, and no later event clears it, not even
RESET. -/
def Obligations.OnlyUnplayableToneFaults : Prop :=
  (∀ (s : State) (sym : SymCode) (dur : Millis),
    s.dds.busy = false → playable s.config sym = false →
      exec (.tone sym dur) s = .fault (.contractViolation sym)) ∧
  (∀ (i : Instr) (s : State) (f : Fault), exec i s = .fault f →
    ∃ sym dur, i = .tone sym dur ∧ s.dds.busy = false ∧ playable s.config sym = false ∧
      f = .contractViolation sym) ∧
  (∀ (before later : List Instr) (s : State) (f : Fault),
    execAll before s = .fault f → execAll (before ++ later) s = .fault f)

/-- An operation within the host's contract answers a next state wherever it is enabled: a line event in
every state, a command at `busy = 0` (60_exceptions.md R200, R202, R214). -/
def Obligations.ContractKeptGivesNextState : Prop :=
  ∀ (i : Instr) (s : State), withinContract s.config i = true →
    isCommand i = false ∨ s.dds.busy = false → ∃ t, exec i s = .next t

/-! ## TICK -/

/-- A TICK while `out_en = 0` has no effect at all (40_dds.md R135). -/
def Obligations.GatedTickHasNoEffect : Prop :=
  ∀ s : State, s.dds.outEn = false → exec .tick s = .next s

/-- A TICK within a note: the sample, and the tick count one higher; nothing else changes
(40_dds.md R135, R140). -/
def Obligations.TickWithinNote : Prop :=
  ∀ s : State, s.dds.outEn = true → s.dds.tickCount.toNat + 1 < s.dds.target.toNat →
    exec .tick s = .next
      { s with
        dds :=
          { s.dds with
            phaseA := nextPhase s.config s.dds.phaseA s.dds.stepA
            phaseB := nextPhase s.config s.dds.phaseB s.dds.stepB
            sampleOut := BitVec.ofNat 8 (sampleOfTick s.config s.dds)
            tickCount := s.dds.tickCount + 1 }
        outputs := s.outputs ++ [.sampleOut (BitVec.ofNat 8 (sampleOfTick s.config s.dds))] }

/-- The TICK that ends a note which a later note of non-zero length follows: that note's steps and
target, a tick count of 0, its index; the output stays on, nothing but the sample is emitted, and the
phases go on (40_dds.md R140, R143). -/
def Obligations.TickChangesNote : Prop :=
  ∀ (s : State) (k : Nat) (n : Note), s.dds.outEn = true →
    s.dds.target.toNat ≤ s.dds.tickCount.toNat + 1 →
    FirstSounding s.config (notes s.config s.dds.curSym s.dds.durArg)
      (s.dds.noteIdx.toNat + 1) k n →
    exec .tick s = .next
      { s with
        dds :=
          { s.dds with
            phaseA := nextPhase s.config s.dds.phaseA s.dds.stepA
            phaseB := nextPhase s.config s.dds.phaseB s.dds.stepB
            sampleOut := BitVec.ofNat 8 (sampleOfTick s.config s.dds)
            stepA := n.stepA
            stepB := n.stepB
            tickCount := 0
            target := BitVec.ofNat 32 (n.ms.toNat * ticksPerMs s.config)
            noteIdx := BitVec.ofNat 2 k }
        outputs := s.outputs ++ [.sampleOut (BitVec.ofNat 8 (sampleOfTick s.config s.dds))] }

/-- The TICK that ends the last note: the last sample, then the output disabled, both steps 0, `busy`
0, OutEn(0) and Done in this order; the phases and the sample stay, `tick_count` holds the count reached
and `note_idx` the length of the list (40_dds.md R140, R144). -/
def Obligations.TickCompletesTone : Prop :=
  ∀ s : State, s.dds.outEn = true →
    s.dds.target.toNat ≤ s.dds.tickCount.toNat + 1 →
    NoneSounding s.config (notes s.config s.dds.curSym s.dds.durArg) (s.dds.noteIdx.toNat + 1) →
    exec .tick s = .next
      { s with
        dds :=
          { s.dds with
            phaseA := nextPhase s.config s.dds.phaseA s.dds.stepA
            phaseB := nextPhase s.config s.dds.phaseB s.dds.stepB
            sampleOut := BitVec.ofNat 8 (sampleOfTick s.config s.dds)
            stepA := 0
            stepB := 0
            outEn := false
            busy := false
            tickCount := s.dds.tickCount + 1
            noteIdx := BitVec.ofNat 2 (notes s.config s.dds.curSym s.dds.durArg).length }
        outputs := s.outputs ++
          [.sampleOut (BitVec.ofNat 8 (sampleOfTick s.config s.dds)), .outEn false, .done] }

/-- The table index is the slot nearest to the phase, half way rounded up, slot 128 wrapping to slot 0:
slot `k` takes the phases from 8k - 4 to 8k + 3 (40_dds.md R137). -/
def Obligations.SineIndexIsNearestSlot : Prop :=
  ∀ (c : Config) (phase k : Nat), 8 * k ≤ phase + 4 → phase + 4 < 8 * k + 8 →
    sineIndex c phase = k % 128 ∧
    (sineAt c phase).toNat = (c.sine.toList.getD (k % 128) 0).toNat

/-- The mixer (40_dds.md R139): `a + (b - floor(b / 4))`, which is `a + ceil(3 b / 4)`, within 0..223
for all amplitudes, and 223 is reached; every effective TICK writes it to `sample_out` and emits it
first. -/
def Obligations.MixerWeightsAndRange : Prop :=
  (∀ a b : Amp, (mix a b).toNat = a.toNat + (b.toNat - b.toNat / 4) ∧
    (mix a b).toNat = a.toNat + (3 * b.toNat + 3) / 4 ∧ (mix a b).toNat ≤ 223) ∧
  mix 127 127 = 223 ∧ mix 0 1 = 1 ∧
  (∀ s : State, s.dds.outEn = true → ∃ t es, exec .tick s = .next t ∧
    t.dds.sampleOut = mix (sineAt s.config t.dds.phaseA)
      (if s.dds.stepB = 0 then 0 else sineAt s.config t.dds.phaseB) ∧
    t.outputs = s.outputs ++ .sampleOut t.dds.sampleOut :: es)

/-- A single tone: with `stepB = 0` the sample is tone A's amplitude, whatever the phase of tone B
(40_dds.md R138). -/
def Obligations.SingleToneIgnoresPhaseB : Prop :=
  ∀ (s : State) (phaseB : Nat), s.dds.outEn = true → s.dds.stepB = 0 →
    ∃ t u, exec .tick s = .next t ∧
      exec .tick { s with dds := { s.dds with phaseB := phaseB } } = .next u ∧
      t.dds.sampleOut = u.dds.sampleOut ∧
      t.dds.sampleOut.toNat = amplitude s.config (slotOf t.dds.phaseA)

/-! ## Properties of the engine -/

/-- Width independence (40_dds.md R141): two machines that differ in PHASE_W only, with phases equal
modulo 1024, have the same outcome at every step, fault and refusal included, stay so, and emit the same.
Their `sample_out` agrees after a step that emits a sample, and goes on agreeing in a step that draws no
unspecified value: nothing is said of it after RESET (10_state.md R25, log 5). -/
def Obligations.PhaseWidthIsUnobservable : Prop :=
  ∀ s t : State, SameButPhaseWidth s t →
    (∀ s', step s = .next s' → ∃ t', step t = .next t' ∧ SameButPhaseWidth s' t' ∧
      ((emittedSince s s').any isSample = true ∨
          (t.dds.sampleOut = s.dds.sampleOut ∧ s'.freeCount = s.freeCount) →
        t'.dds.sampleOut = s'.dds.sampleOut)) ∧
    (∀ f, step s = .fault f → step t = .fault f) ∧
    (∀ r, step s = .refused r → step t = .refused r)

/-- Periodicity (40_dds.md R145). A phase that a constant step `s` advances is back modulo 1024 exactly
after the multiples of `P(s)` ticks, and the amplitudes repeat with period `P(s)`. In the machine, as long
as a note lasts, the amplitude of tone A repeats after `P(stepA)` TICKs, and `sample_out` after
`lcm(P(stepA), P(stepB))`. -/
def Obligations.SamplesArePeriodic : Prop :=
  (∀ (c : Config) (step : StepWidth) (phase n : Nat),
    let tickPhase := fun p => advancePhase c p step
    ((tickPhase^[n] phase) % 1024 = phase % 1024 ↔ period step ∣ n) ∧
    (tickPhase^[n + period step] phase) % 1024 = (tickPhase^[n] phase) % 1024 ∧
    sineAt c (tickPhase^[n + period step] phase) = sineAt c (tickPhase^[n] phase)) ∧
  (∀ (s : State) (n : Nat), s.dds.outEn = true →
    s.dds.tickCount.toNat + n + period s.dds.stepA ≤ s.dds.target.toNat →
    ∃ u v, execAll (ticks n) s = .next u ∧
      execAll (ticks (n + period s.dds.stepA)) s = .next v ∧
      v.dds.phaseA % 1024 = u.dds.phaseA % 1024 ∧
      sineAt s.config v.dds.phaseA = sineAt s.config u.dds.phaseA) ∧
  (∀ (s : State) (n : Nat), s.dds.outEn = true → 1 ≤ n →
    s.dds.tickCount.toNat + n + Nat.lcm (period s.dds.stepA) (period s.dds.stepB) ≤
      s.dds.target.toNat →
    ∃ u v, execAll (ticks n) s = .next u ∧
      execAll (ticks (n + Nat.lcm (period s.dds.stepA) (period s.dds.stepB))) s = .next v ∧
      v.dds.sampleOut = u.dds.sampleOut)

/-- The length of a tone (40_dds.md R146): after an accepted TONE of a playable symbol, `busy` is 1 until
exactly `T(sym, dur)` effective ticks have come, each of which emits one sample. -/
def Obligations.ToneLastsItsTicks : Prop :=
  ∀ (s t : State) (sym : SymCode) (dur : Millis) (n : Nat),
    s.dds.busy = false → exec (.tone sym dur) s = .next t → n ≤ toneLength s.config sym dur →
    ∃ u, execAll (ticks n) t = .next u ∧
      (u.dds.busy = true ↔ n < toneLength s.config sym dur) ∧
      u.outputs.countP isSample = s.outputs.countP isSample + n

/-- Phase continuity (40_dds.md R147, 10_state.md R46): an operation leaves both phases, or adds the steps
to them (an effective TICK), or zeroes them (RESET, or INIT when accepted). -/
def Obligations.PhasesMoveByStepsOnly : Prop :=
  ∀ (i : Instr) (s t : State), exec i s = .next t →
    (t.dds.phaseA = s.dds.phaseA ∧ t.dds.phaseB = s.dds.phaseB) ∨
    (i = .tick ∧ s.dds.outEn = true ∧
      t.dds.phaseA = nextPhase s.config s.dds.phaseA s.dds.stepA ∧
      t.dds.phaseB = nextPhase s.config s.dds.phaseB s.dds.stepB) ∨
    ((i = .reset ∨ (i = .init ∧ s.dds.busy = false)) ∧
      t.dds.phaseA = 0 ∧ t.dds.phaseB = 0)

/-- A tone is not cancelled (40_dds.md R154): `busy` rises by TONE only, and falls by RESET or by the
TICK that completes the tone and says so. -/
def Obligations.BusyFollowsTheSequencer : Prop :=
  (∀ (i : Instr) (s t : State), exec i s = .next t → s.dds.busy = false → t.dds.busy = true →
    ∃ sym dur, i = .tone sym dur) ∧
  (∀ (i : Instr) (s t : State), exec i s = .next t → s.dds.busy = true → t.dds.busy = false →
    i = .reset ∨ (i = .tick ∧ ∃ v, t.outputs = s.outputs ++ [.sampleOut v, .outEn false, .done]))

/-- The invariant holds after reset. -/
def Obligations.ResetIsConsistent : Prop := State.reset.Consistent

/-- Every step keeps the invariant: the phases fit PHASE_W bits (10_state.md R21, R22), `busy = out_en`
(40_dds.md R149), idle steps are 0 (R148), `tick_count <= target` and strictly while busy (R150), the
sequencer plays a note of the tone in progress (R154), `digit` is 0..9 or 31 (41_decoder.md R183),
emitted samples are 0..223 and emitted digits 0..9 (30_encoding.md R102; the record of events is the
model's choice, log 3). -/
def Obligations.StepKeepsConsistent : Prop :=
  ∀ s t : State, s.Consistent → step s = .next t → t.Consistent

/-- OutEn(b) is emitted exactly when `out_en` changes to b (30_encoding.md R102). -/
def Obligations.OutEnEventsMarkChanges : Prop :=
  ∀ (i : Instr) (s t : State), s.Consistent → exec i s = .next t →
    (emittedSince s t).filterMap outEnLevel =
      if t.dds.outEn = s.dds.outEn then [] else [t.dds.outEn]

/-! ## The whole machine -/

/-- The tables never change (20_memory.md R68), and no more does any other parameter: the configuration
"is not state" (10_state.md R20). That MAP_POLICY stays over a RESET too, where the hardware's strap is
only "constant between resets" (R39), is the model's choice (log 4). -/
def Obligations.TablesNeverChange : Prop :=
  ∀ s t : State, step s = .next t → t.config = s.config

/-- What has been emitted stays emitted, in its order (00_scope.md R10; the record of outputs is the
model's choice, log 3). -/
def Obligations.OutputsOnlyGrow : Prop :=
  ∀ s t : State, step s = .next t → s.outputs <+: t.outputs

/-- The two halves share no register (10_state.md R45): INIT, TONE and TICK leave the decoder, and DIALS,
DIALE, PULSE, DBREL and SFINH leave the DDS engine. Neither touches the pending words. -/
def Obligations.HalvesWriteDisjointRegisters : Prop :=
  (∀ (i : Instr) (s t : State), isDdsOp i = true → exec i s = .next t →
    t.dec = s.dec ∧ t.stimuli = s.stimuli) ∧
  (∀ (i : Instr) (s t : State), isDecoderOp i = true → exec i s = .next t →
    t.dds = s.dds ∧ t.stimuli = s.stimuli)

/-- Neither half reads the other (41_decoder.md R186): from two states that agree on one half and on the
configuration, an operation of that half gives the same registers of that half and emits the same. -/
def Obligations.HalvesReadDisjointRegisters : Prop :=
  (∀ (i : Instr) (s t s' : State), isDdsOp i = true → t.dds = s.dds → t.config = s.config →
    exec i s = .next s' → ∃ t', exec i t = .next t' ∧ t'.dds = s'.dds ∧
      emittedSince t t' = emittedSince s s') ∧
  (∀ (i : Instr) (s t s' : State), isDecoderOp i = true → t.dec = s.dec → t.config = s.config →
    exec i s = .next s' → ∃ t', exec i t = .next t' ∧ t'.dec = s'.dec ∧
      emittedSince t t' = emittedSince s s')

/-- An operation of the DDS engine and one of the decoder commute (60_exceptions.md R206): either order
gives the same state but for the interleaving of the emitted events, and the same events of each half
in the same order. -/
def Obligations.HalvesCommute : Prop :=
  ∀ (i j : Instr) (s t u : State), isDdsOp i = true → isDecoderOp j = true →
    exec i s = .next t → exec j t = .next u →
    ∃ t' u', exec j s = .next t' ∧ exec i t' = .next u' ∧
      { u' with outputs := u.outputs } = u ∧
      u'.outputs.filter isDdsEvent = u.outputs.filter isDdsEvent ∧
      u'.outputs.filter (fun e => !isDdsEvent e) = u.outputs.filter (fun e => !isDdsEvent e)

/-- An environment that keeps the host's contract never stops the machine: each step answers a next
state, and what is left keeps the contract (60_exceptions.md R200, R201, R214). That a step with no
enabled event answers the same state, that the commands among the pending words are passed over while
`busy = 1`, and that the pending words are a list of State, are the model's choices (log 1, log 2). -/
def Obligations.ContractKeptRunsOn : Prop :=
  ∀ s : State, PendingWithinContract s → ∃ t, step s = .next t ∧ PendingWithinContract t

/-! ## The decoder -/

/-- DIALS at rest arms counting: `dialing` 1, the count 0, SfArm; nothing else changes, the lock and the
digit among it. While dialing it has no effect (41_decoder.md R174). -/
def Obligations.DialsArmsCounting : Prop :=
  (∀ s : State, s.dec.dialing = false → exec .dials s = .next
    { s with
      dec := { s.dec with dialing := true, pulseCount := 0 }
      outputs := s.outputs ++ [.sfArm] }) ∧
  (∀ s : State, s.dec.dialing = true → exec .dials s = .next s)

/-- DIALS while dialing and DIALE at rest have no effect (41_decoder.md R175). -/
def Obligations.RepeatedLineLevelsHaveNoEffect : Prop :=
  (∀ s : State, s.dec.dialing = true → exec .dials s = .next s) ∧
  (∀ s : State, s.dec.dialing = false → exec .diale s = .next s)

/-- PULSE (41_decoder.md R176, R177): a bounce has no effect; a qualifying edge sets the lock; while
dialing it emits SfCancel; while dialing and not inhibited it counts by one, up to 255. -/
def Obligations.PulseCountsQualifyingEdges : Prop :=
  (∀ s : State, s.dec.dbLock = true → exec .pulse s = .next s) ∧
  (∀ s : State, s.dec.dbLock = false → s.dec.dialing = false →
    exec .pulse s = .next { s with dec := { s.dec with dbLock := true } }) ∧
  (∀ s : State, s.dec.dbLock = false → s.dec.dialing = true → s.dec.sfInhibit = true →
    exec .pulse s = .next
      { s with
        dec := { s.dec with dbLock := true }
        outputs := s.outputs ++ [.sfCancel] }) ∧
  (∀ s : State, s.dec.dbLock = false → s.dec.dialing = true → s.dec.sfInhibit = false →
    exec .pulse s = .next
      { s with
        dec :=
          { s.dec with
            dbLock := true
            pulseCount := if s.dec.pulseCount = 255 then 255 else s.dec.pulseCount + 1 }
        outputs := s.outputs ++ [.sfCancel] })

/-- The debounce lock (41_decoder.md R176): a PULSE under the lock has no effect at all; a PULSE without
it sets it, whatever the other registers hold; and it stays set until the next DBREL (or RESET). -/
def Obligations.LockHoldsUntilRelease : Prop :=
  (∀ s : State, s.dec.dbLock = true → exec .pulse s = .next s) ∧
  (∀ s : State, s.dec.dbLock = false → ∃ t, exec .pulse s = .next t ∧ t.dec.dbLock = true) ∧
  (∀ (i : Instr) (s t : State), exec i s = .next t → s.dec.dbLock = true →
    t.dec.dbLock = false → i = .dbrel ∨ i = .reset)

/-- DBREL clears the lock and nothing else (41_decoder.md R178). -/
def Obligations.DbrelClearsLock : Prop :=
  ∀ s : State, exec .dbrel s = .next { s with dec := { s.dec with dbLock := false } }

/-- SFINH latches its level and nothing else (41_decoder.md R179). -/
def Obligations.SfinhLatchesLevel : Prop :=
  ∀ (s : State) (lvl : Bool),
    exec (.sfinh lvl) s = .next { s with dec := { s.dec with sfInhibit := lvl } }

/-- DIALE while dialing (41_decoder.md R180): back to rest, `digit` becomes CLASSIFY of the count (which
ClassifierTable states), SfCancel and then DigitOut or Dropped; the count, the lock and the inhibit level
stay. At rest it has no effect. A count outside 1..10 decodes to OFF, and 10 to digit 0 under
STANDARD. -/
def Obligations.DialeClassifiesCount : Prop :=
  (∀ s : State, s.dec.dialing = true →
    exec .diale s = .next
      { s with
        dec :=
          { s.dec with
            dialing := false
            digit := classify s.config.mapPolicy s.dec.pulseCount }
        outputs := s.outputs ++
          [.sfCancel, digitEvent (classify s.config.mapPolicy s.dec.pulseCount)] }) ∧
  (∀ s : State, s.dec.dialing = false → exec .diale s = .next s) ∧
  (∀ (p : MapPolicy) (count : PulseCount), count.toNat = 0 ∨ 11 ≤ count.toNat →
    classify p count = 31) ∧
  classify .standard 10 = 0

/-- CLASSIFY and MAP (41_decoder.md R172, R173): MAP for a count of 1..10 under each policy, OFF for
every other count, and the table that the rule prints. The formulas of REVERSED and OFFSET are the
spec's "from general knowledge" (log 11). -/
def Obligations.ClassifierTable : Prop :=
  ∀ (p : MapPolicy) (count : PulseCount),
    classify p count = digitOfCount p count.toNat ∧
    (1 ≤ count.toNat ∧ count.toNat ≤ 10 → (classify p count).toNat =
      match p with
      | .standard => count.toNat % 10
      | .reversed => (10 - count.toNat) % 10
      | .offset => count.toNat - 1) ∧
    (count.toNat = 0 ∨ 11 ≤ count.toNat → classify p count = 31)

/-- "Each policy is a bijection from 1..10 onto 0..9" (41_decoder.md R173; the formulas of REVERSED and
OFFSET are the spec's "from general knowledge", log 11). -/
def Obligations.MappingPoliciesAreBijections : Prop :=
  ∀ p : MapPolicy,
    (∀ a b, 1 ≤ a → a ≤ 10 → 1 ≤ b → b ≤ 10 → mapCount p a = mapCount p b → a = b) ∧
    (∀ d, d ≤ 9 ↔ ∃ a, 1 ≤ a ∧ a ≤ 10 ∧ mapCount p a = d)

/-- The dialing state changes by DIALS, DIALE and RESET only, each in its direction
(41_decoder.md R171). -/
def Obligations.DialingFollowsTheLine : Prop :=
  ∀ (i : Instr) (s t : State), exec i s = .next t →
    (s.dec.dialing = false → t.dec.dialing = true → i = .dials) ∧
    (s.dec.dialing = true → t.dec.dialing = false → i = .diale ∨ i = .reset)

/-- A clean rotation of `k` pulses (41_decoder.md R182; R181 beyond 255): the count is `k`, saturated,
the digit is that of the count, and the events are SfArm, one SfCancel for each pulse, SfCancel, and
DigitOut or Dropped; nothing else changes. -/
def Obligations.CleanRotationDecodes : Prop :=
  ∀ (s : State) (k : Nat),
    s.dec.dialing = false → s.dec.dbLock = false → s.dec.sfInhibit = false →
    execAll (rotate k) s = .next
      { s with
        dec :=
          { dialing := false, pulseCount := BitVec.ofNat 8 (min k 255),
            digit := classify s.config.mapPolicy (BitVec.ofNat 8 (min k 255)), dbLock := false,
            sfInhibit := false }
        outputs := s.outputs ++ .sfArm :: (List.replicate (k + 1) .sfCancel ++
          [digitEvent (classify s.config.mapPolicy (BitVec.ofNat 8 (min k 255)))]) }

/-- Contact bounces change nothing: any number of PULSE events with no DBREL between them has the
effect of the first (41_decoder.md R176, R182). -/
def Obligations.BouncesChangeNothing : Prop :=
  ∀ (s : State) (j : Nat), execAll (bounce (j + 1)) s = exec .pulse s

/-! ## Constants -/

/-- The reference table (20_memory.md R62): 64 at indices 0 and 64, 127 exactly at 30..34, 0 exactly at
94..98, and opposite entries sum to 127, but for 128 at index 0. -/
def Obligations.SineReference : Prop :=
  Config.sineRef[0] = 64 ∧ Config.sineRef[64] = 64 ∧
  (∀ i : Fin 128, Config.sineRef[i] = 127 ↔ 30 ≤ i.val ∧ i.val ≤ 34) ∧
  (∀ i : Fin 128, Config.sineRef[i] = 0 ↔ 94 ≤ i.val ∧ i.val ≤ 98) ∧
  (∀ i : Fin 64, (Config.sineRef[i.val]).toNat + (Config.sineRef[i.val + 64]).toNat =
    if i.val = 0 then 128 else 127)

/-- The strap pins: 0 STANDARD, 1 REVERSED, 2 OFFSET, 3 taken as STANDARD (10_state.md R39). -/
def Obligations.StrapPins : Prop :=
  mapPolicyOfStrap 0 = .standard ∧ mapPolicyOfStrap 1 = .reversed ∧
  mapPolicyOfStrap 2 = .offset ∧ mapPolicyOfStrap 3 = .standard

/-! ## Outcomes and output lines -/

/-- The four outcomes of an event are kept apart (60_exceptions.md R202): a next state exactly when the
operation is enabled and within the host's contract; the fault exactly for an accepted TONE of an
unplayable symbol; "not enabled" exactly for a command at `busy = 1`, and an operation is refused for no
other reason; and no step answers "not enabled": it takes no command while `busy = 1`. That "not enabled"
is a value of Refusal is the model's choice (log 2). -/
def Obligations.OutcomesAreKeptApart : Prop :=
  (∀ (i : Instr) (s : State), (∃ t, exec i s = .next t) ↔
    withinContract s.config i = true ∧ (isCommand i = false ∨ s.dds.busy = false)) ∧
  (∀ (i : Instr) (s : State) (f : Fault), exec i s = .fault f ↔
    ∃ sym dur, i = .tone sym dur ∧ s.dds.busy = false ∧ playable s.config sym = false ∧
      f = .contractViolation sym) ∧
  (∀ (i : Instr) (s : State) (r : Refusal), exec i s = .refused r ↔
    isCommand i = true ∧ s.dds.busy = true ∧ r = .notEnabled (encode i)) ∧
  (∀ (s : State) (w : Word), step s ≠ .refused (.notEnabled w))

/-- The output lines (10_state.md R43): `cmd_ready` is `1 - busy`, and 1 exactly when a command is enabled;
`sample`, `out_en`, `busy` and `digit` show their registers; `digit_valid` strobes exactly in a DIALE while
dialing with a count of 1..10, when the line `digit` carries the digit handed out, 0..9 (41_decoder.md
R172, R180); `sf_arm` exactly in a DIALS at rest (R174); `sf_cancel` exactly in a DIALE or a qualifying
PULSE while dialing (R177, R180). That "not enabled" is a value of Refusal, and that a strobe is read off
the record of events, are the model's choices (log 2, log 3). -/
def Obligations.OutputLinesAndStrobes : Prop :=
  (∀ s : State, outputLines s =
    { cmdReady := !s.dds.busy, sample := s.dds.sampleOut, outEn := s.dds.outEn, busy := s.dds.busy,
      digit := s.dec.digit }) ∧
  (∀ (i : Instr) (s : State), isCommand i = true →
    ((outputLines s).cmdReady = true ↔ ∀ w, exec i s ≠ .refused (.notEnabled w))) ∧
  (∀ (i : Instr) (s t : State), exec i s = .next t →
    ((strobes s t).digitValid = true ↔ i = .diale ∧ s.dec.dialing = true ∧
      1 ≤ s.dec.pulseCount.toNat ∧ s.dec.pulseCount.toNat ≤ 10) ∧
    ((strobes s t).digitValid = true →
      OutEvent.digitOut (outputLines t).digit ∈ emittedSince s t ∧
      (outputLines t).digit.toNat ≤ 9) ∧
    ((strobes s t).sfArm = true ↔ i = .dials ∧ s.dec.dialing = false) ∧
    ((strobes s t).sfCancel = true ↔ s.dec.dialing = true ∧
      (i = .diale ∨ (i = .pulse ∧ s.dec.dbLock = false))))
end

