-- ==== Sys2Proof/Laws/State.lean ====
section
/-!
SUPPORT. One lemma for each field of State after each named update, so that no later proof unfolds an
update.
-/

namespace Sys2Proof.Machine

@[simp] theorem applyDds_dds (s : State) (r : Dds × List OutEvent) :
    (s.applyDds r).dds = r.1 := rfl
@[simp] theorem applyDds_dec (s : State) (r : Dds × List OutEvent) :
    (s.applyDds r).dec = s.dec := rfl
@[simp] theorem applyDds_config (s : State) (r : Dds × List OutEvent) :
    (s.applyDds r).config = s.config := rfl
@[simp] theorem applyDds_stimuli (s : State) (r : Dds × List OutEvent) :
    (s.applyDds r).stimuli = s.stimuli := rfl
@[simp] theorem applyDds_outputs (s : State) (r : Dds × List OutEvent) :
    (s.applyDds r).outputs = s.outputs ++ r.2 := rfl
@[simp] theorem applyDds_freeCount (s : State) (r : Dds × List OutEvent) :
    (s.applyDds r).freeCount = s.freeCount := rfl

@[simp] theorem applyDec_dds (s : State) (r : Decoder × List OutEvent) :
    (s.applyDec r).dds = s.dds := rfl
@[simp] theorem applyDec_dec (s : State) (r : Decoder × List OutEvent) :
    (s.applyDec r).dec = r.1 := rfl
@[simp] theorem applyDec_config (s : State) (r : Decoder × List OutEvent) :
    (s.applyDec r).config = s.config := rfl
@[simp] theorem applyDec_stimuli (s : State) (r : Decoder × List OutEvent) :
    (s.applyDec r).stimuli = s.stimuli := rfl
@[simp] theorem applyDec_outputs (s : State) (r : Decoder × List OutEvent) :
    (s.applyDec r).outputs = s.outputs ++ r.2 := rfl
@[simp] theorem applyDec_freeCount (s : State) (r : Decoder × List OutEvent) :
    (s.applyDec r).freeCount = s.freeCount := rfl

@[simp] theorem withStimuli_dds (s : State) (ws : List Word) :
    (s.withStimuli ws).dds = s.dds := rfl
@[simp] theorem withStimuli_dec (s : State) (ws : List Word) :
    (s.withStimuli ws).dec = s.dec := rfl
@[simp] theorem withStimuli_config (s : State) (ws : List Word) :
    (s.withStimuli ws).config = s.config := rfl
@[simp] theorem withStimuli_stimuli (s : State) (ws : List Word) :
    (s.withStimuli ws).stimuli = ws := rfl
@[simp] theorem withStimuli_outputs (s : State) (ws : List Word) :
    (s.withStimuli ws).outputs = s.outputs := rfl
@[simp] theorem withStimuli_freeCount (s : State) (ws : List Word) :
    (s.withStimuli ws).freeCount = s.freeCount := rfl

@[simp] theorem resetBlock_dds (s : State) :
    s.resetBlock.dds = Dds.afterReset (Config.unspecifiedSample s.freeCount) := rfl
@[simp] theorem resetBlock_dec (s : State) : s.resetBlock.dec = Decoder.afterReset := rfl
@[simp] theorem resetBlock_config (s : State) : s.resetBlock.config = s.config := rfl
@[simp] theorem resetBlock_stimuli (s : State) : s.resetBlock.stimuli = s.stimuli := rfl
@[simp] theorem resetBlock_outputs (s : State) :
    s.resetBlock.outputs = s.outputs ++ if s.dds.outEn then [.outEn false] else [] := rfl
@[simp] theorem resetBlock_freeCount (s : State) :
    s.resetBlock.freeCount = s.freeCount + 1 := rfl

end Sys2Proof.Machine
end

