-- ==== Sys2Proof/Laws/Ops.lean ====
section
/-!
SUPPORT. For each shared operation, once, everything it can do.
-/

namespace Sys2Proof.Machine

/-- The handshake of the command port: a command with a next state was accepted and takes its effect. -/
theorem commandPort_eq_next {i : Instr} {s t : State} {effect : State → Result}
    (h : commandPort i s effect = .next t) : s.dds.busy = false ∧ effect s = .next t := by
  unfold commandPort cmdReady at h
  cases hb : s.dds.busy <;> simp_all

theorem commandPort_ready {i : Instr} {s : State} {effect : State → Result}
    (h : s.dds.busy = false) : commandPort i s effect = effect s := by
  simp [commandPort, cmdReady, h]

theorem commandPort_busy {i : Instr} {s : State} {effect : State → Result}
    (h : s.dds.busy = true) : commandPort i s effect = .refused (.notEnabled (encode i)) := by
  simp [commandPort, cmdReady, h]

/-- An accepted INIT puts the DDS engine in its idle condition. -/
theorem execInit_eq_next {s t : State} (h : execInit s = .next t) :
    s.dds.busy = false ∧ t = s.applyDds (initDds s.dds, []) := by
  obtain ⟨hb, h⟩ := commandPort_eq_next h
  exact ⟨hb, by simpa using h.symm⟩

/-- An accepted TONE with a next state has a playable symbol, and the tone starts. -/
theorem execTone_eq_next {sym : SymCode} {dur : Millis} {s t : State}
    (h : execTone sym dur s = .next t) :
    s.dds.busy = false ∧ playable s.config sym = true ∧
      t = s.applyDds (startTone s.config s.dds sym dur) := by
  obtain ⟨hb, h⟩ := commandPort_eq_next h
  split at h
  · exact ⟨hb, ‹_›, by simpa using h.symm⟩
  · simp [raiseContractViolation] at h

/-- TICK is gated, or it is one effective tick. -/
theorem execTick_eq_next {s t : State} (h : execTick s = .next t) :
    (s.dds.outEn = false ∧ t = s) ∨
      (s.dds.outEn = true ∧ t = s.applyDds (effectiveTick s.config s.dds)) := by
  unfold execTick tickEnabled at h
  cases hb : s.dds.outEn <;> simp_all

theorem isCommandWord_encode (i : Instr) : isCommandWord (encode i) = isCommand i := by
  cases i with
  | tone sym dur =>
    have op : opField (encode (.tone sym dur)) = 2 := by
      apply BitVec.eq_of_getLsbD_eq
      intro k hk
      have h1 : ¬ 28 + k < 16 := by omega
      have h2 : ¬ 28 + k - 16 < 5 := by omega
      have h3 : ¬ 28 + k - 16 - 5 < 7 := by omega
      simp only [opField, encode, formatT, BitVec.getLsbD_extractLsb', BitVec.getLsbD_append, h1, h2,
        h3, if_false]
      rw [show 28 + k - 16 - 5 - 7 = k by omega]
      simp [hk]
    simp [isCommandWord, op, isCommand]
  | sfinh lvl => cases lvl <;> decide
  | _ => decide

/-- The agent of a word has a step exactly when the word is no command word or `busy = 0`. -/
theorem agentEnabled_iff {d : Dds} {w : Word} :
    agentEnabled d w = true ↔ isCommandWord w = false ∨ d.busy = false := by
  unfold agentEnabled cmdReady
  cases d.busy <;> cases isCommandWord w <;> simp

/-- The word taken stands behind words whose agent has no step, and it alone is taken away. -/
theorem takeEnabled_eq_some {d : Dds} {words left : List Word} {w : Word}
    (h : takeEnabled d words = some (w, left)) :
    ∃ before after, words = before ++ w :: after ∧ left = before ++ after ∧
      (∀ v ∈ before, agentEnabled d v = false) ∧ agentEnabled d w = true := by
  induction words generalizing left with
  | nil => simp [takeEnabled] at h
  | cons v rest ih =>
    rw [takeEnabled] at h
    split at h
    · obtain ⟨rfl, rfl⟩ : v = w ∧ rest = left := by simpa using h
      exact ⟨[], rest, rfl, rfl, by simp, ‹_›⟩
    · rename_i hv
      obtain ⟨⟨w', left'⟩, ht, heq⟩ := Option.map_eq_some_iff.mp h
      obtain ⟨rfl, rfl⟩ : w' = w ∧ v :: left' = left := by simpa using heq
      obtain ⟨before, after, rfl, rfl, hb, hw⟩ := ih ht
      exact ⟨v :: before, after, rfl, rfl, by simpa [hv] using hb, hw⟩

/-- A word behind words whose agent has no step is the one taken. -/
theorem takeEnabled_append {d : Dds} {before after : List Word} {w : Word}
    (hb : ∀ v ∈ before, agentEnabled d v = false) (hw : agentEnabled d w = true) :
    takeEnabled d (before ++ w :: after) = some (w, before ++ after) := by
  induction before with
  | nil => simp [takeEnabled, hw]
  | cons v rest ih =>
    have hv := hb v (List.mem_cons_self ..)
    have hr := ih fun x hx => hb x (List.mem_cons_of_mem _ hx)
    simp [takeEnabled, hv, hr]

/-- With no enabled agent among the words, none is taken. -/
theorem takeEnabled_none {d : Dds} {words : List Word}
    (h : ∀ v ∈ words, agentEnabled d v = false) : takeEnabled d words = none := by
  induction words with
  | nil => rfl
  | cons v rest ih =>
    have hv := h v (List.mem_cons_self ..)
    have hr := ih fun x hx => h x (List.mem_cons_of_mem _ hx)
    simp [takeEnabled, hv, hr]

/-- The next stimulus is the first pending word whose agent is enabled; the others stay, in order. -/
theorem nextStimulus_eq_some {s t : State} {w : Word} (h : s.nextStimulus = some (w, t)) :
    ∃ before after, s.stimuli = before ++ w :: after ∧ t = s.withStimuli (before ++ after) ∧
      (∀ v ∈ before, agentEnabled s.dds v = false) ∧ agentEnabled s.dds w = true := by
  obtain ⟨⟨w', left⟩, ht, heq⟩ := Option.map_eq_some_iff.mp h
  obtain ⟨rfl, rfl⟩ : w' = w ∧ s.withStimuli left = t := by simpa using heq
  obtain ⟨before, after, hs, rfl, hb, hw⟩ := takeEnabled_eq_some ht
  exact ⟨before, after, hs, rfl, hb, hw⟩

/-- A word put in front is the next stimulus when its agent is enabled, and taking it leaves the state
as it was. -/
theorem nextStimulus_putStimulus {s : State} {w : Word} (h : agentEnabled s.dds w = true) :
    (s.putStimulus w).nextStimulus = some (w, s) := by
  simp [State.nextStimulus, State.putStimulus, State.withStimuli, takeEnabled, h]

/-- A step does nothing, or it applies the operation of the next stimulus word. -/
theorem step_eq_next {s t : State} (h : step s = .next t) :
    (s.nextStimulus = none ∧ t = s) ∨
      ∃ w rest i, s.nextStimulus = some (w, rest) ∧ decode w = .ok i ∧ exec i rest = .next t := by
  unfold step at h
  split at h
  · simp_all
  · rename_i w rest hn
    split at h
    · rename_i i hd
      exact .inr ⟨w, rest, i, hn, hd, h⟩
    · simp at h

theorem phaseWrap_lt (c : Config) (v : Nat) : phaseWrap c v < 2 ^ phaseWidth c :=
  Nat.mod_lt _ (Nat.two_pow_pos _)

theorem ticksPerMs_pos (c : Config) : 0 < ticksPerMs c := Nat.succ_pos _

/-- The tick count of a note fits its register: "the product is below 2^TICKCNT_W". -/
theorem ticksOf_lt (c : Config) (ms : Millis) : ticksOf c ms < 2 ^ 32 := by
  have h1 : ms.toNat ≤ 65535 := Nat.le_of_lt_succ ms.isLt
  have h2 : ticksPerMs c ≤ 65537 := c.ticksPerMsPred.isLt
  exact Nat.lt_of_le_of_lt (Nat.mul_le_mul h1 h2) (by decide)

theorem nextNote_le (c : Config) (l : List Note) (j : Nat) : nextNote c l j ≤ l.length :=
  Nat.min_le_right _ _

/-- A note list has at most three notes, so its length fits `note_idx`. -/
theorem notes_length_le (c : Config) (sym : SymCode) (dur : Millis) :
    (notes c sym dur).length ≤ 3 := by
  unfold notes tune
  split
  · simp
  · rename_i entries h
    split at h
    · simp at h; simp [← h]
    · simp at h
      cases hd : c.tuneDesc <;> simp [← h, hd, tuneEntries]
    all_goals simp at h
  · simp

/-- The start of a tone: a first sounding note is loaded, or every note has zero length. -/
theorem startTone_cases (c : Config) (d : Dds) (sym : SymCode) (dur : Millis) :
    (∃ n, (notes c sym dur)[nextNote c (notes c sym dur) 0]? = some n ∧
        startTone c d sym dur =
          ({ loadNote c { d with curSym := sym, durArg := dur } (nextNote c (notes c sym dur) 0) n
              with outEn := true, busy := true }, [.outEn true])) ∨
      ((notes c sym dur)[nextNote c (notes c sym dur) 0]? = none ∧
        startTone c d sym dur =
          ({ d with
              curSym := sym, durArg := dur, stepA := 0, stepB := 0, tickCount := 0, target := 0,
              noteIdx := BitVec.ofNat 2 (notes c sym dur).length }, [.done])) := by
  unfold startTone
  cases h : (notes c sym dur)[nextNote c (notes c sym dur) 0]? <;> simp [h]

/-- The counter step: the note goes on, changes, or was the last one. -/
theorem tickCounter_cases (c : Config) (d : Dds) :
    (d.tickCount.toNat + 1 < d.target.toNat ∧
        tickCounter c d = ({ d with tickCount := BitVec.ofNat 32 (d.tickCount.toNat + 1) }, [])) ∨
      (d.target.toNat ≤ d.tickCount.toNat + 1 ∧
        ∃ n, (notes c d.curSym d.durArg)[nextNote c (notes c d.curSym d.durArg)
            (d.noteIdx.toNat + 1)]? = some n ∧
          tickCounter c d = (loadNote c d (nextNote c (notes c d.curSym d.durArg)
            (d.noteIdx.toNat + 1)) n, [])) ∨
      (d.target.toNat ≤ d.tickCount.toNat + 1 ∧
        (notes c d.curSym d.durArg)[nextNote c (notes c d.curSym d.durArg)
            (d.noteIdx.toNat + 1)]? = none ∧
        tickCounter c d =
          completeTone d (d.tickCount.toNat + 1) (notes c d.curSym d.durArg).length) := by
  unfold tickCounter
  by_cases hc : d.tickCount.toNat + 1 < d.target.toNat
  · exact .inl ⟨hc, by simp [hc]⟩
  · refine .inr ?_
    cases h : (notes c d.curSym d.durArg)[nextNote c (notes c d.curSym d.durArg)
        (d.noteIdx.toNat + 1)]? with
    | some n => exact .inl ⟨by omega, n, by simp, by simp [hc, h]⟩
    | none => exact .inr ⟨by omega, by simp, by simp [hc, h]⟩

/-- The counter step leaves the phases, the sample, the symbol and the `dur` operand. -/
theorem tickCounter_frame (c : Config) (d : Dds) :
    (tickCounter c d).1.phaseA = d.phaseA ∧ (tickCounter c d).1.phaseB = d.phaseB ∧
      (tickCounter c d).1.sampleOut = d.sampleOut ∧ (tickCounter c d).1.curSym = d.curSym ∧
      (tickCounter c d).1.durArg = d.durArg := by
  rcases tickCounter_cases c d with ⟨_, h⟩ | ⟨_, _, _, h⟩ | ⟨_, _, h⟩ <;>
    simp [h, loadNote, completeTone]

theorem effectiveTick_phaseA (c : Config) (d : Dds) :
    (effectiveTick c d).1.phaseA = advancePhase c d.phaseA d.stepA :=
  (tickCounter_frame c (tickSample c d).1).1

theorem effectiveTick_phaseB (c : Config) (d : Dds) :
    (effectiveTick c d).1.phaseB = advancePhase c d.phaseB d.stepB :=
  (tickCounter_frame c (tickSample c d).1).2.1

theorem effectiveTick_sampleOut (c : Config) (d : Dds) :
    (effectiveTick c d).1.sampleOut =
      mix (sineAt c (advancePhase c d.phaseA d.stepA))
        (sampleB c d.stepB (advancePhase c d.phaseB d.stepB)) :=
  (tickCounter_frame c (tickSample c d).1).2.2.1

end Sys2Proof.Machine
end

