-- ==== Sys2Proof/Laws/PerInstr.lean ====
section
/-!
SUPPORT. Statements for all instructions, one lemma for each constructor. `EncodedInItsRow`: the word of
an operation lies in the row of the opcode map that has its mnemonic (30_encoding.md R97).
-/

namespace Sys2Proof.Laws.EncodedInItsRow

/-- The word of `i` is selected by the row of the opcode map with the mnemonic of `i`. -/
def Statement (i : Instr) : Prop :=
  ∃ r ∈ opcodeRows, r.mnemonic = mnemonicOf i ∧ r.selects (encode i) = true

theorem init : Statement .init := ⟨⟨"INIT", 0x10000000, 0xFFFFFFFF⟩, by decide, rfl, rfl⟩

theorem tone (sym : SymCode) (dur : Millis) : Statement (.tone sym dur) := by
  refine ⟨⟨"TONE", 0x20000000, 0xFFE00000⟩, by decide, rfl, ?_⟩
  have masked : ((0x100 : BitVec 11) ++ sym ++ dur) &&&
      ((0x7FF : BitVec 11) ++ (0 : BitVec 5) ++ (0 : BitVec 16)) = (0x20000000 : Word) := by
    rw [BitVec.and_append, BitVec.and_append]
    simp
  exact beq_iff_eq.mpr masked

theorem tick : Statement .tick := ⟨⟨"TICK", 0x80000000, 0xFFFFFFFF⟩, by decide, rfl, rfl⟩
theorem diale : Statement .diale := ⟨⟨"DIALE", 0x90000000, 0xFFFFFFFF⟩, by decide, rfl, rfl⟩
theorem dials : Statement .dials := ⟨⟨"DIALS", 0x90000001, 0xFFFFFFFF⟩, by decide, rfl, rfl⟩
theorem pulse : Statement .pulse := ⟨⟨"PULSE", 0xA0000000, 0xFFFFFFFF⟩, by decide, rfl, rfl⟩
theorem dbrel : Statement .dbrel := ⟨⟨"DBREL", 0xB0000000, 0xFFFFFFFF⟩, by decide, rfl, rfl⟩

theorem sfinh (lvl : Bool) : Statement (.sfinh lvl) :=
  ⟨⟨"SFINH", 0xC0000000, 0xFFFFFFFE⟩, by decide, rfl, by cases lvl <;> rfl⟩

theorem reset : Statement .reset := ⟨⟨"RESET", 0xF0000000, 0xFFFFFFFF⟩, by decide, rfl, rfl⟩

end Sys2Proof.Laws.EncodedInItsRow
end

