-- ==== Sys2Proof/Tests/Slice0.lean ====
section
/-!
SUPPORT. Tests: the words and vectors of 95_test_vectors.md, one step each, over its example
configurations EX1 and EX2, whose expected values are the spec's. Then, for each obligation with
hypotheses, a state and operands that meet all of them together, clause by clause.
-/

namespace Sys2Proof.Tests

open Sys2Proof.Machine Sys2Proof.Claims

/-! Example configurations (95_test_vectors.md section 0) -/

/-- A two-tone entry of FREQ_EX. -/
def dual (stepA : StepWidth) (stepB : Nat) : DualTone := ⟨stepA, Fin.ofNat 255 (stepB - 1)⟩

/-- EX1. -/
def ex1 : Config where
  phaseExtra := 6
  sine := Config.sineRef
  mfSupported := true
  dtmf := #v[dual 86 60, dual 77 45, dual 86 45, dual 95 45, dual 77 49, dual 86 49, dual 95 49,
    dual 77 55, dual 86 55, dual 95 55, dual 77 60, dual 95 60]
  mf := #v[dual 96 83, dual 58 45, dual 70 45, dual 70 58, dual 83 45, dual 83 58, dual 83 70,
    dual 96 45, dual 96 58, dual 96 70, dual 109 70, dual 109 96]
  sup2600 := 166
  beep := 64
  beepLow := 32
  tuneAsc := #v[⟨33, 2⟩, ⟨42, 2⟩, ⟨50, 2⟩]
  tuneDesc := .two ⟨50, 2⟩ ⟨33, 2⟩
  ticksPerMsPred := 15
  mapPolicy := .standard

/-- EX2: EX1 with TICKS_PER_MS = 1. -/
def ex2 : Config := { ex1 with ticksPerMsPred := 0 }

/-! Small states and views -/

/-- The state after RESET under a configuration, `sample_out` at `v`. -/
def idle (c : Config) (v : Sample) : State :=
  { dds := Dds.afterReset v, dec := Decoder.afterReset, config := c, stimuli := [],
    outputs := [], freeCount := 1 }

/-- `idle` with other DDS registers. -/
def withRegs (c : Config) (d : Dds) : State := { idle c 0 with dds := d }

/-- `idle` with other decoder registers. -/
def withDecoder (c : Config) (d : Decoder) : State := { idle c 0 with dec := d }

/-- The DDS registers of the state after TONE SUP2600, 4 under EX2 (V-TICK-4). -/
def playingSup : Dds :=
  { Dds.afterReset 0 with
    stepA := 166, target := 4, curSym := 24, durArg := 4, outEn := true, busy := true }

/-- The registers and events of an outcome. -/
def ddsOf (r : Result) : Option (Dds × List OutEvent) :=
  match r with
  | .next s => some (s.dds, s.outputs)
  | .fault _ => none
  | .refused _ => none

/-- The decoder registers and events of an outcome. -/
def decOf (r : Result) : Option (Decoder × List OutEvent) :=
  match r with
  | .next s => some (s.dec, s.outputs)
  | .fault _ => none
  | .refused _ => none

/-! Words (V-ENC) -/

theorem test_decode_init : decode 0x10000000 = .ok .init := by decide
theorem test_decode_tone_5_100 : decode 0x20050064 = .ok (.tone 5 100) := by decide
theorem test_decode_tone_pound : decode 0x200BFFFF = .ok (.tone 11 65535) := by decide
theorem test_decode_tone_sup2600 : decode 0x201805DC = .ok (.tone 24 1500) := by decide
theorem test_decode_tick : decode 0x80000000 = .ok .tick := by decide
theorem test_decode_diale : decode 0x90000000 = .ok .diale := by decide
theorem test_decode_dials : decode 0x90000001 = .ok .dials := by decide
theorem test_decode_pulse : decode 0xA0000000 = .ok .pulse := by decide
theorem test_decode_dbrel : decode 0xB0000000 = .ok .dbrel := by decide
theorem test_decode_sfinh_0 : decode 0xC0000000 = .ok (.sfinh false) := by decide
theorem test_decode_sfinh_1 : decode 0xC0000001 = .ok (.sfinh true) := by decide
theorem test_decode_reset : decode 0xF0000000 = .ok .reset := by decide

theorem test_encode_tone_0_70 : encode (.tone 0 70) = 0x20000046 := by decide
theorem test_encode_tune : encode (.tone 27 0) = 0x201B0000 := by decide

/-- The reserved words of V-ENC are rejected by name. -/
theorem test_decode_reserved :
    decode 0x00000000 = .error (.reservedClass 0) ∧
    decode 0x30000000 = .error (.reservedClass 3) ∧
    decode 0xE0000001 = .error (.reservedClass 0xE) ∧
    decode 0x10000001 = .error (.unnamedBitSet 0x10000001) ∧
    decode 0x20200000 = .error (.unnamedBitSet 0x20200000) ∧
    decode 0x90000002 = .error (.unnamedBitSet 0x90000002) ∧
    decode 0xC0000002 = .error (.unnamedBitSet 0xC0000002) := by decide

/-- A trace stores the least significant byte first (20_memory.md R69). -/
theorem test_decode_bytes :
    decodeBytes [0x64, 0x00, 0x05, 0x20, 0xAA] = .ok (.tone 5 100, [0xAA]) := by decide

theorem test_decode_bytes_truncated : decodeBytes [0x00, 0x00, 0x00] = .error .truncated := by
  decide

theorem test_decode_table_word : decodeTableWord 32 0x20050064 = some (.tone 5 100) := by decide

/-! The checks of WellFormed.lean, each refusing an ill-formed term -/

theorem test_wellFormed_accepts : wellFormedWord 0x90000001 = true := by decide
theorem test_wellFormed_class : wellFormedWord 0xD0000000 = false := by decide
theorem test_wellFormed_z_unnamed : wellFormedWord 0xA0000010 = false := by decide
theorem test_wellFormed_z_sub : wellFormedWord 0x80000001 = false := by decide
theorem test_wellFormed_t_unnamed : wellFormedWord 0x20200000 = false := by decide
theorem test_wellFormed_l_unnamed : wellFormedWord 0xC0000002 = false := by decide

/-- V-TONE-3: OFF, a reserved code, and an MF code without MF support are outside the contract. -/
theorem test_withinContract :
    withinContract ex1 (.tone 31 50) = false ∧ withinContract ex1 (.tone 29 1) = false ∧
    withinContract { ex1 with mfSupported := false } (.tone 13 50) = false ∧
    withinContract ex1 (.tone 13 50) = true := by decide

/-! INIT, TONE, RESET -/

/-- V-INIT-1. -/
theorem test_init :
    ddsOf (exec .init (withRegs ex1
      { Dds.afterReset 116 with
        phaseA := 1376, phaseB := 784, tickCount := 16, target := 16, noteIdx := 1, curSym := 5,
        durArg := 1 })) =
      some ({ Dds.afterReset 116 with curSym := 5, durArg := 1 }, []) := by decide

/-- V-TONE-1. -/
theorem test_tone_digit :
    ddsOf (exec (.tone 5 1) (idle ex1 0)) =
      some ({ Dds.afterReset 0 with
        stepA := 86, stepB := 49, target := 16, curSym := 5, durArg := 1, outEn := true,
        busy := true }, [.outEn true]) := by decide

/-- V-TONE-4: a tune ignores `dur`. -/
theorem test_tone_tune :
    ddsOf (exec (.tone 28 999) (idle ex2 0)) =
      some ({ Dds.afterReset 0 with
        stepA := 50, target := 2, curSym := 28, durArg := 999, outEn := true, busy := true },
        [.outEn true]) := by decide

/-- V-TONE-2: zero duration. -/
theorem test_tone_zero :
    ddsOf (exec (.tone 5 0) (idle ex1 0)) =
      some ({ Dds.afterReset 0 with curSym := 5, noteIdx := 1 }, [.done]) := by decide

/-- V-TONE-3: an unplayable symbol. -/
theorem test_tone_unplayable :
    (match exec (.tone 31 50) (idle ex1 0) with
      | .fault f => some f
      | _ => none) = some (.contractViolation 31) := by decide

/-- V-RESET-1: mid-tone, OutEn(0) and no Done. -/
theorem test_reset :
    (match exec .reset { withRegs ex1 { playingSup with phaseA := 430 } with
        dec := ⟨true, 4, 7, true, true⟩ } with
      | .next t => some ((t.dds.phaseA, t.dds.busy, t.dds.curSym), t.dec, t.outputs)
      | _ => none) =
      some ((0, false, 31), ⟨false, 0, 31, false, false⟩, [.outEn false]) := by decide

/-! TICK -/

/-- V-IDX-1. -/
theorem test_sineIndex :
    [0, 3, 4, 11, 12, 1019, 1020, 1023, 1024, 1028, 65531, 65532, 65535].map (sineIndex ex1) =
      [0, 0, 1, 1, 2, 127, 0, 0, 0, 1, 127, 0, 0] := by decide

/-- V-MIX-1. -/
theorem test_mix :
    [mix 0 0, mix 127 127, mix 64 64, mix 127 0, mix 0 127, mix 1 1, mix 5 7, mix 100 50, mix 0 5] =
      [0, 223, 112, 127, 96, 2, 11, 138, 4] := by decide

/-- V-TICK-2. -/
theorem test_tick_sample :
    ddsOf (exec .tick (withRegs ex1
      { playingSup with stepA := 86, stepB := 49, target := 16, curSym := 5, durArg := 1 })) =
      some ({ playingSup with
        phaseA := 86, phaseB := 49, stepA := 86, stepB := 49, target := 16, curSym := 5,
        durArg := 1, sampleOut := 158, tickCount := 1 }, [.sampleOut 158]) := by decide

/-- V-TICK-4, the fourth tick: completion of a single tone. -/
theorem test_tick_completion :
    ddsOf (exec .tick (withRegs ex2
      { playingSup with phaseA := 498, sampleOut := 70, tickCount := 3 })) =
      some ({ Dds.afterReset 12 with
        phaseA := 664, tickCount := 4, target := 4, noteIdx := 1, curSym := 24, durArg := 4 },
        [.sampleOut 12, .outEn false, .done]) := by decide

/-- P3, the second tick: a note change. -/
theorem test_tick_note_change :
    ddsOf (exec .tick (withRegs ex2
      { playingSup with
        phaseA := 33, stepA := 33, sampleOut := 76, tickCount := 1, target := 2, curSym := 27,
        durArg := 0 })) =
      some ({ playingSup with
        phaseA := 66, stepA := 42, sampleOut := 88, tickCount := 0, target := 2, curSym := 27,
        durArg := 0, noteIdx := 1 }, [.sampleOut 88]) := by decide

/-! The decoder -/

/-- V-DEC-1. -/
theorem test_classify :
    [0, 1, 2, 9, 10, 11, 255].map (classify .standard) = [31, 1, 2, 9, 0, 31, 31] ∧
    [0, 1, 2, 9, 10, 11, 255].map (classify .reversed) = [31, 9, 8, 1, 0, 31, 31] ∧
    [0, 1, 2, 9, 10, 11, 255].map (classify .offset) = [31, 0, 1, 8, 9, 31, 31] := by decide

/-- The example of R174. -/
theorem test_dials :
    decOf (exec .dials (withDecoder ex1 ⟨false, 7, 7, false, false⟩)) =
      some (⟨true, 0, 7, false, false⟩, [.sfArm]) := by decide

/-- The example of R177. -/
theorem test_pulse_counted :
    decOf (exec .pulse (withDecoder ex1 ⟨true, 2, 31, false, false⟩)) =
      some (⟨true, 3, 31, true, false⟩, [.sfCancel]) := by decide

/-- V-DEC-4: the count saturates. -/
theorem test_pulse_saturates :
    decOf (exec .pulse (withDecoder ex1 ⟨true, 255, 31, false, false⟩)) =
      some (⟨true, 255, 31, true, false⟩, [.sfCancel]) := by decide

/-- The example of R178. -/
theorem test_dbrel :
    decOf (exec .dbrel (withDecoder ex1 ⟨true, 3, 31, true, false⟩)) =
      some (⟨true, 3, 31, false, false⟩, []) := by decide

/-- The example of R179. -/
theorem test_sfinh :
    decOf (exec (.sfinh true) (withDecoder ex1 ⟨true, 3, 31, true, false⟩)) =
      some (⟨true, 3, 31, true, true⟩, []) := by decide

/-- The example of R180. -/
theorem test_diale_ten :
    decOf (exec .diale (withDecoder ex1 ⟨true, 10, 31, false, false⟩)) =
      some (⟨false, 10, 0, false, false⟩, [.sfCancel, .digitOut 0]) := by decide

/-- V-DEC-3, the end of an empty rotation. -/
theorem test_diale_dropped :
    decOf (exec .diale (withDecoder ex1 ⟨true, 0, 31, false, false⟩)) =
      some (⟨false, 0, 31, false, false⟩, [.sfCancel, .dropped]) := by decide

/-! The step -/

/-- A word is fetched and run as the first event after reset. -/
theorem test_step_first :
    (match step (State.reset.withFetchWord 32 0x90000001) with
      | .next t => some (t.dec.dialing, t.stimuli, t.outputs)
      | _ => none) = some (true, [], [.sfArm]) := by decide

/-- V-TONE-5: a command presented while `busy = 1` is not enabled. -/
theorem test_command_not_enabled :
    (match exec .init (withRegs ex2 playingSup) with
      | .refused r => some r
      | _ => none) = some (.notEnabled 0x10000000) := by decide

/-- V-TONE-5: the completing TICK passes the waiting command, which "is accepted in the state reached by
the completing TICK". -/
theorem test_step_waiting :
    (match step { withRegs ex2 { playingSup with tickCount := 3 } with
        stimuli := [0x20050001, 0x80000000, 0xF0000000] } with
      | .next t =>
        (match step t with
          | .next u => some (t.dds.busy, t.stimuli, u.dds.busy, u.stimuli)
          | _ => none)
      | _ => none) = some (false, [0x20050001, 0xF0000000], true, [0xF0000000]) := by decide

/-- A reserved word is refused (R98). -/
theorem test_step_reserved :
    (match step (State.reset.withFetchWord 32 0x20200000) with
      | .refused r => some r
      | _ => none) = some (.reservedWord 0x20200000) := by decide

/-- The worked line of R97. -/
theorem test_traceLine : traceLine (.tone 5 100) = "TONE 5, 100" := by decide

/-! ## Witnesses -/

/-- EX1 at the least PHASE_W: with `ex1`, two machines that differ in PHASE_W only. -/
def ex1Narrow : Config := { ex1 with phaseExtra := 0 }

/-- EX2 with a tune whose first two notes have zero length. -/
def exLateNote : Config := { ex2 with tuneAsc := #v[⟨33, 0⟩, ⟨42, 0⟩, ⟨50, 1⟩] }

/-- EX2 with a tune of three notes of zero length. -/
def exSilentTune : Config := { ex2 with tuneAsc := #v[⟨33, 0⟩, ⟨42, 0⟩, ⟨50, 0⟩] }

/-- The last tick of `playingSup` is the next. -/
def lastTick : Dds := { playingSup with tickCount := 3 }

/-- The first note of TUNE_ASC of EX2, its last tick to come. -/
def noteEnd : Dds :=
  { playingSup with stepA := 33, target := 2, tickCount := 1, curSym := 27, durArg := 0 }

/-- At rest, the lock and the inhibit level as given. -/
def rest (lock inhibit : Bool) : Decoder := ⟨false, 7, 7, lock, inhibit⟩

/-- Dialing, with the count, the lock and the inhibit level as given. -/
def counting (count : PulseCount) (lock inhibit : Bool) : Decoder := ⟨true, count, 31, lock, inhibit⟩

theorem noneSounding_of_drop {c : Config} {l : List Note} {j : Nat}
    (h : ∀ n ∈ l.drop j, ticksOf c n.ms = 0) : NoneSounding c l j := by
  intro i m hji hi
  obtain ⟨d, rfl⟩ := Nat.exists_eq_add_of_le hji
  exact h m (List.mem_iff_getElem?.2 ⟨d, by rw [List.getElem?_drop]; exact hi⟩)

theorem firstSounding_of_take {c : Config} {l : List Note} {j k : Nat} {n : Note} (hjk : j ≤ k)
    (hk : l[k]? = some n) (hn : 0 < ticksOf c n.ms)
    (h : ∀ m ∈ (l.take k).drop j, ticksOf c m.ms = 0) : FirstSounding c l j k n := by
  refine ⟨hjk, hk, hn, fun i m hji hik hi => ?_⟩
  obtain ⟨d, rfl⟩ := Nat.exists_eq_add_of_le hji
  exact h m (List.mem_iff_getElem?.2
    ⟨d, by rw [List.getElem?_drop, List.getElem?_take_of_lt hik]; exact hi⟩)

theorem all_commands {ws : List Word} (h : ws.all isCommandWord = true) :
    ∀ v ∈ ws, isCommandWord v = true := List.all_eq_true.1 h

theorem playing_consistent : (withRegs ex2 playingSup).Consistent where
  dds_consistent :=
    { phaseA_lt := by decide
      phaseB_lt := by decide
      busy_eq_outEn := rfl
      idle_steps := fun h => Bool.noConfusion h
      count_le := by decide
      playing := fun _ =>
        ⟨⟨166, 0, 4⟩, by decide, by decide, by decide, by decide, by decide, by decide⟩ }
  digit_inRange := Or.inr rfl
  outputs_inRange := by intro e h; cases h

theorem withinContract_pending :
    PendingWithinContract { idle ex1 0 with stimuli := [0x20050064, 0x80000000] } := by
  intro w h
  rcases List.mem_cons.1 h with rfl | h
  · exact ⟨.tone 5 100, by decide, by decide⟩
  · rcases List.mem_cons.1 h with rfl | h
    · exact ⟨.tick, by decide, by decide⟩
    · cases h

/-! Encoding -/

theorem witness_EncodeDecodeAgree : decode 0x201805DC = .ok (.tone 24 1500) := by decide

theorem witness_DecodeFollowsOpcodeMap_decodes :
    decode 0x201BFFFF = .ok (.tone 27 0xFFFF) ∧ decode 0xC0000001 = .ok (.sfinh true) := by decide
theorem witness_DecodeFollowsOpcodeMap_selected :
    ∃ r ∈ opcodeRows, (0xC0000001 : Word) &&& r.mask = r.pattern := by decide
theorem witness_DecodeFollowsOpcodeMap_disjoint :
    ∃ r ∈ opcodeRows, ∃ q ∈ opcodeRows,
      (0x90000001 : Word) &&& r.mask = r.pattern ∧ (0x90000001 : Word) &&& q.mask = q.pattern := by
  decide

/-! The step -/

/-- A line event while `busy = 1`, and a command at `busy = 0`. -/
theorem witness_StepRunsDecodedStimulus_first :
    (let s := { withRegs ex2 playingSup with stimuli := [0x80000000, 0x10000000] };
      s.stimuli = 0x80000000 :: [0x10000000] ∧ decode 0x80000000 = .ok .tick ∧
        (isCommand .tick = false ∨ s.dds.busy = false)) ∧
    (let s := { idle ex2 0 with stimuli := [0x10000000] };
      s.stimuli = 0x10000000 :: [] ∧ decode 0x10000000 = .ok .init ∧
        (isCommand .init = false ∨ s.dds.busy = false)) :=
  ⟨⟨rfl, by decide, by decide⟩, rfl, by decide, by decide⟩
/-- Two commands before the event. -/
theorem witness_StepRunsDecodedStimulus_passing :
    let s := { withRegs ex2 playingSup with
      stimuli := [0x10000000, 0x20050064, 0x80000000, 0xF0000000] };
    s.dds.busy = true ∧ (∀ v ∈ [(0x10000000 : Word), 0x20050064], isCommandWord v = true) ∧
      s.stimuli = [0x10000000, 0x20050064] ++ 0x80000000 :: [0xF0000000] ∧
      decode 0x80000000 = .ok .tick ∧ isCommand .tick = false :=
  ⟨by decide, all_commands (by decide), rfl, by decide, by decide⟩

theorem witness_StepIdlesWithoutStimulus :
    (idle ex2 0).stimuli = [] ∧
    (let s := { withRegs ex2 playingSup with stimuli := [0x10000000] };
      s.dds.busy = true ∧ ∀ v ∈ s.stimuli, isCommandWord v = true) :=
  ⟨rfl, by decide, all_commands (by decide)⟩

theorem witness_FetchWordRunsNext :
    (isCommand .tick = false ∨ (withRegs ex2 playingSup).dds.busy = false) ∧
      (isCommand .init = false ∨ (idle ex2 0).dds.busy = false) := by decide

theorem witness_ReservedWordsRefused_first :
    (let s := { withRegs ex2 playingSup with stimuli := [0x90000002] };
      s.stimuli = 0x90000002 :: [] ∧
        (isCommandWord 0x90000002 = false ∨ s.dds.busy = false) ∧
        wellFormedWord 0x90000002 = false) ∧
    (let s := { idle ex2 0 with stimuli := [0x10000001] };
      s.stimuli = 0x10000001 :: [] ∧
        (isCommandWord 0x10000001 = false ∨ s.dds.busy = false) ∧
        wellFormedWord 0x10000001 = false) :=
  ⟨⟨rfl, by decide, by decide⟩, rfl, by decide, by decide⟩
theorem witness_ReservedWordsRefused_passing :
    let s := { withRegs ex2 playingSup with stimuli := [0x10000001, 0x30000000] };
    s.dds.busy = true ∧ (∀ v ∈ [(0x10000001 : Word)], isCommandWord v = true) ∧
      s.stimuli = [0x10000001] ++ 0x30000000 :: [] ∧ isCommandWord 0x30000000 = false ∧
      wellFormedWord 0x30000000 = false :=
  ⟨by decide, all_commands (by decide), rfl, by decide, by decide⟩
theorem witness_ReservedWordsRefused_refusal :
    step { idle ex2 0 with stimuli := [0x90000002] } = .refused (.reservedWord 0x90000002) := by rfl

/-! INIT and the command port -/

theorem witness_InitIdlesTheEngine :
    (idle ex1 116).dds.busy = false ∧ (withRegs ex2 playingSup).dds.busy = true := by decide

theorem witness_CommandsWaitWhileBusy_command :
    isCommand .init = true ∧ isCommand (.tone 31 0) = true ∧
      (withRegs ex2 playingSup).dds.busy = true := by decide
theorem witness_CommandsWaitWhileBusy_step :
    let s := { withRegs ex2 playingSup with stimuli := [0x20050064, 0x80000000, 0x10000000] };
    s.dds.busy = true ∧ (∃ t, step s = .next t) ∧ s.presentedCommand = some 0x20050064 :=
  ⟨by decide, ⟨_, rfl⟩, by decide⟩
theorem witness_CommandsWaitWhileBusy_lineEvent : isCommand .tick = false := by decide

/-! TONE -/

theorem witness_PlayableCodes : (idle ex1 0).dds.busy = false := by decide

theorem witness_TableConstraints :
    freq ex1 0 = some ⟨86, 60⟩ ∧ freq ex1 23 = some ⟨109, 96⟩ ∧ freq ex1 24 = some ⟨166, 0⟩ ∧
      freq ex1 26 = some ⟨32, 0⟩ ∧ tune ex1 27 = some [⟨33, 2⟩, ⟨42, 2⟩, ⟨50, 2⟩] ∧
      tune ex1 28 = some [⟨50, 2⟩, ⟨33, 2⟩] := by decide

theorem witness_NotesOfSymbol :
    freq ex1 11 = some ⟨95, 60⟩ ∧ freq ex1 25 = some ⟨64, 0⟩ ∧
      ∃ l, tune ex1 28 = some l ∧ l[1]? = some ⟨33, 2⟩ := ⟨by decide, by decide, _, rfl, by decide⟩

theorem witness_NextIsFirstSoundingNote_first :
    FirstSounding ex1 [⟨1, 0, 0⟩, ⟨2, 0, 0⟩, ⟨3, 0, 1⟩] 0 2 ⟨3, 0, 1⟩ :=
  firstSounding_of_take (by decide) (by decide) (by decide) (by decide)
theorem witness_NextIsFirstSoundingNote_none : NoneSounding ex1 [⟨1, 0, 9⟩, ⟨2, 0, 0⟩] 1 :=
  noneSounding_of_drop (by decide)
theorem witness_NextIsFirstSoundingNote_below :
    nextNote ex1 [⟨1, 0, 0⟩, ⟨2, 0, 5⟩] 0 < [Note.mk 1 0 0, ⟨2, 0, 5⟩].length := by decide

/-- The first note sounds, and so does only the last. -/
theorem witness_ToneStartsFirstNote :
    ((idle ex1 0).dds.busy = false ∧ playable (idle ex1 0).config 5 = true ∧
      FirstSounding (idle ex1 0).config (notes (idle ex1 0).config 5 1) 0 0 ⟨86, 49, 1⟩) ∧
    ((idle exLateNote 0).dds.busy = false ∧ playable (idle exLateNote 0).config 27 = true ∧
      FirstSounding (idle exLateNote 0).config (notes (idle exLateNote 0).config 27 0) 0 2
        ⟨50, 0, 1⟩) :=
  ⟨⟨by decide, by decide, firstSounding_of_take (by decide) (by decide) (by decide) (by decide)⟩,
    by decide, by decide, firstSounding_of_take (by decide) (by decide) (by decide) (by decide)⟩

theorem witness_SilentToneCompletesAtOnce :
    ((idle ex1 0).dds.busy = false ∧ playable (idle ex1 0).config 5 = true ∧
      NoneSounding (idle ex1 0).config (notes (idle ex1 0).config 5 0) 0) ∧
    ((idle exSilentTune 0).dds.busy = false ∧ playable (idle exSilentTune 0).config 27 = true ∧
      NoneSounding (idle exSilentTune 0).config (notes (idle exSilentTune 0).config 27 9) 0) :=
  ⟨⟨by decide, by decide, noneSounding_of_drop (by decide)⟩,
    by decide, by decide, noneSounding_of_drop (by decide)⟩

theorem witness_OnlyUnplayableToneFaults :
    (idle ex1 0).dds.busy = false ∧ playable (idle ex1 0).config 29 = false ∧
      exec (.tone 29 1) (idle ex1 0) = .fault (.contractViolation 29) ∧
      execAll [.init, .tone 29 1] (idle ex1 0) = .fault (.contractViolation 29) :=
  ⟨by decide, by decide, rfl, rfl⟩

theorem witness_ContractKeptGivesNextState :
    (withinContract (idle ex1 0).config (.tone 28 0) = true ∧
      (isCommand (.tone 28 0) = false ∨ (idle ex1 0).dds.busy = false)) ∧
    (withinContract (withRegs ex1 playingSup).config .tick = true ∧
      (isCommand .tick = false ∨ (withRegs ex1 playingSup).dds.busy = false)) := by decide

/-! TICK -/

theorem witness_GatedTickHasNoEffect : (idle ex1 0).dds.outEn = false := by decide

theorem witness_TickWithinNote :
    (withRegs ex2 { playingSup with tickCount := 2 }).dds.outEn = true ∧
      (withRegs ex2 { playingSup with tickCount := 2 }).dds.tickCount.toNat + 1 <
        (withRegs ex2 { playingSup with tickCount := 2 }).dds.target.toNat := by decide

theorem witness_TickChangesNote :
    let s := withRegs ex2 noteEnd
    s.dds.outEn = true ∧ s.dds.target.toNat ≤ s.dds.tickCount.toNat + 1 ∧
      FirstSounding s.config (notes s.config s.dds.curSym s.dds.durArg) (s.dds.noteIdx.toNat + 1) 1
        ⟨42, 0, 2⟩ :=
  ⟨by decide, by decide, firstSounding_of_take (by decide) (by decide) (by decide) (by decide)⟩

theorem witness_TickCompletesTone :
    let s := withRegs ex2 lastTick
    s.dds.outEn = true ∧ s.dds.target.toNat ≤ s.dds.tickCount.toNat + 1 ∧
      NoneSounding s.config (notes s.config s.dds.curSym s.dds.durArg)
        (s.dds.noteIdx.toNat + 1) :=
  ⟨by decide, by decide, noneSounding_of_drop (by decide)⟩

/-- Both ends of slot 0, of slot 1, and of the slot that wraps to slot 0. -/
theorem witness_SineIndexIsNearestSlot :
    ∀ x ∈ [(0, 0), (3, 0), (4, 1), (11, 1), (1020, 128), (1027, 128)],
      8 * x.2 ≤ x.1 + 4 ∧ x.1 + 4 < 8 * x.2 + 8 := by decide

theorem witness_MixerWeightsAndRange : (withRegs ex2 playingSup).dds.outEn = true := by decide

theorem witness_SingleToneIgnoresPhaseB :
    (withRegs ex2 playingSup).dds.outEn = true ∧ (withRegs ex2 playingSup).dds.stepB = 0 := by decide

/-! Properties of the engine -/

/-- A machine in mid-tone with one word pending, and one that differs from it in PHASE_W, in the phase by
a multiple of 1024, in `sample_out` and in the free-value counter. -/
def wide (w : Word) : State :=
  { withRegs ex1 { playingSup with phaseA := 1024 + 498 } with stimuli := [w] }
/-- See `wide`. -/
def narrow (w : Word) : State :=
  { withRegs ex1Narrow { playingSup with phaseA := 498, sampleOut := 9 } with
    stimuli := [w], freeCount := 5 }

theorem wide_narrow (w : Word) : SameButPhaseWidth (wide w) (narrow w) :=
  ⟨rfl, rfl, show 498 % 1024 = (1024 + 498) % 1024 by decide, rfl, rfl, rfl, rfl⟩

/-- A step that emits a sample, and one that draws no unspecified value with `sample_out` the same. -/
theorem witness_PhaseWidthIsUnobservable_next :
    (SameButPhaseWidth (wide 0x80000000) (narrow 0x80000000) ∧
      ∃ t, step (wide 0x80000000) = .next t ∧
        (emittedSince (wide 0x80000000) t).any isSample = true) ∧
    (SameButPhaseWidth (wide 0xB0000000) (wide 0xB0000000) ∧
      ∃ t, step (wide 0xB0000000) = .next t ∧ t.freeCount = (wide 0xB0000000).freeCount) :=
  ⟨⟨wide_narrow _, _, rfl, by decide⟩,
    ⟨rfl, rfl, rfl, rfl, rfl, rfl, rfl⟩, _, rfl, by decide⟩
theorem witness_PhaseWidthIsUnobservable_refused :
    SameButPhaseWidth (wide 0x90000002) (narrow 0x90000002) ∧
      step (wide 0x90000002) = .refused (.reservedWord 0x90000002) := ⟨wide_narrow _, rfl⟩
theorem witness_PhaseWidthIsUnobservable_fault :
    SameButPhaseWidth { idle ex1 0 with stimuli := [0x201F0032] }
        { idle ex1Narrow 0 with stimuli := [0x201F0032] } ∧
      step { idle ex1 0 with stimuli := [0x201F0032] } = .fault (.contractViolation 31) :=
  ⟨⟨rfl, rfl, rfl, rfl, rfl, rfl, rfl⟩, rfl⟩

/-- Up to the last tick of a note: steps 64 and 128 have periods 16 and 8. -/
theorem witness_SamplesArePeriodic :
    let s := withRegs ex2 { playingSup with stepA := 64, stepB := 128, target := 20 };
    s.dds.outEn = true ∧ 1 ≤ 4 ∧
      s.dds.tickCount.toNat + 4 + period s.dds.stepA ≤ s.dds.target.toNat ∧
      s.dds.tickCount.toNat + 4 + Nat.lcm (period s.dds.stepA) (period s.dds.stepB) ≤
        s.dds.target.toNat := by decide

/-- The first and the last count of ticks. -/
theorem witness_ToneLastsItsTicks :
    (idle ex2 0).dds.busy = false ∧ (∃ t, exec (.tone 27 0) (idle ex2 0) = .next t) ∧
      0 ≤ toneLength (idle ex2 0).config 27 0 ∧ 6 ≤ toneLength (idle ex2 0).config 27 0 :=
  ⟨by decide, ⟨_, rfl⟩, by decide, by decide⟩

theorem witness_PhasesMoveByStepsOnly :
    (∃ t, exec .dbrel (idle ex1 0) = .next t) ∧
    (∃ t, exec .tick (withRegs ex2 playingSup) = .next t ∧ t.dds.phaseA = 166) ∧
    (∃ t, exec .init (withRegs ex2 { Dds.afterReset 0 with phaseA := 9 }) = .next t ∧
      t.dds.phaseA = 0) :=
  ⟨⟨_, rfl⟩, ⟨_, rfl, by decide⟩, _, rfl, by decide⟩

theorem witness_BusyFollowsTheSequencer_rise :
    ∃ t, exec (.tone 5 1) (idle ex1 0) = .next t ∧ (idle ex1 0).dds.busy = false ∧
      t.dds.busy = true := ⟨_, rfl, by decide, by decide⟩
theorem witness_BusyFollowsTheSequencer_fall :
    (∃ t, exec .tick (withRegs ex2 lastTick) = .next t ∧
      (withRegs ex2 lastTick).dds.busy = true ∧ t.dds.busy = false) ∧
    (∃ t, exec .reset (withRegs ex2 playingSup) = .next t ∧
      (withRegs ex2 playingSup).dds.busy = true ∧ t.dds.busy = false) :=
  ⟨⟨_, rfl, by decide, by decide⟩, _, rfl, by decide, by decide⟩

theorem witness_StepKeepsConsistent :
    ((withRegs ex2 playingSup).withFetchWord 32 0x80000000).Consistent ∧
      ∃ t, step ((withRegs ex2 playingSup).withFetchWord 32 0x80000000) = .next t :=
  ⟨⟨playing_consistent.1, playing_consistent.2, playing_consistent.3⟩, _, rfl⟩

theorem witness_OutEnEventsMarkChanges :
    (withRegs ex2 playingSup).Consistent ∧ ∃ t, exec .reset (withRegs ex2 playingSup) = .next t :=
  ⟨playing_consistent, _, rfl⟩

/-! The whole machine -/

theorem witness_TablesNeverChange : ∃ t, step (State.reset.withFetchWord 32 0xF0000000) = .next t :=
  ⟨_, rfl⟩
theorem witness_OutputsOnlyGrow : ∃ t, step (State.reset.withFetchWord 32 0x90000001) = .next t :=
  ⟨_, rfl⟩

theorem witness_HalvesWriteDisjointRegisters :
    (isDdsOp (.tone 5 1) = true ∧ ∃ t, exec (.tone 5 1) (idle ex1 0) = .next t) ∧
    (isDecoderOp .dials = true ∧ ∃ t, exec .dials (idle ex1 0) = .next t) :=
  ⟨⟨by decide, _, rfl⟩, by decide, _, rfl⟩

theorem witness_HalvesReadDisjointRegisters_dds :
    isDdsOp .tick = true ∧
      ({ withRegs ex2 playingSup with dec := counting 3 true false }).dds =
        (withRegs ex2 playingSup).dds ∧
      ({ withRegs ex2 playingSup with dec := counting 3 true false }).config =
        (withRegs ex2 playingSup).config ∧
      ∃ s', exec .tick (withRegs ex2 playingSup) = .next s' :=
  ⟨by decide, rfl, rfl, _, rfl⟩
theorem witness_HalvesReadDisjointRegisters_decoder :
    isDecoderOp .pulse = true ∧
      (withRegs ex2 playingSup).dec = (idle ex2 0).dec ∧
      (withRegs ex2 playingSup).config = (idle ex2 0).config ∧
      ∃ s', exec .pulse (idle ex2 0) = .next s' :=
  ⟨by decide, rfl, rfl, _, rfl⟩

theorem witness_HalvesCommute :
    isDdsOp .tick = true ∧ isDecoderOp .dials = true ∧
      ∃ t u, exec .tick (withRegs ex2 playingSup) = .next t ∧ exec .dials t = .next u :=
  ⟨by decide, by decide, _, _, rfl, rfl⟩

theorem witness_ContractKeptRunsOn :
    PendingWithinContract { idle ex1 0 with stimuli := [0x20050064, 0x80000000] } :=
  withinContract_pending

/-! The decoder -/

theorem witness_DialsArmsCounting :
    (withDecoder ex1 (rest true false)).dec.dialing = false ∧
      (withDecoder ex1 (counting 3 false false)).dec.dialing = true := by decide

theorem witness_RepeatedLineLevelsHaveNoEffect :
    (withDecoder ex1 (counting 3 false false)).dec.dialing = true ∧
      (withDecoder ex1 (rest false false)).dec.dialing = false := by decide

theorem witness_PulseCountsQualifyingEdges_bounce :
    (withDecoder ex1 (counting 3 true false)).dec.dbLock = true := by decide
theorem witness_PulseCountsQualifyingEdges_rest :
    (withDecoder ex1 (rest false false)).dec.dbLock = false ∧
      (withDecoder ex1 (rest false false)).dec.dialing = false := by decide
theorem witness_PulseCountsQualifyingEdges_inhibited :
    let s := withDecoder ex1 (counting 3 false true)
    s.dec.dbLock = false ∧ s.dec.dialing = true ∧ s.dec.sfInhibit = true := by decide
theorem witness_PulseCountsQualifyingEdges_counted :
    ∀ count ∈ [(0 : PulseCount), 254, 255],
      let s := withDecoder ex1 (counting count false false)
      s.dec.dbLock = false ∧ s.dec.dialing = true ∧ s.dec.sfInhibit = false := by decide

theorem witness_LockHoldsUntilRelease_pulse :
    (withDecoder ex1 (counting 3 true false)).dec.dbLock = true ∧
      (withDecoder ex1 (rest false true)).dec.dbLock = false := by decide
theorem witness_LockHoldsUntilRelease_release :
    ∃ t, exec .dbrel (withDecoder ex1 (rest true false)) = .next t ∧
      (withDecoder ex1 (rest true false)).dec.dbLock = true ∧ t.dec.dbLock = false :=
  ⟨_, rfl, by decide, by decide⟩

theorem witness_DialeClassifiesCount :
    (∀ count ∈ [(0 : PulseCount), 1, 10, 11, 255],
      (withDecoder ex1 (counting count true true)).dec.dialing = true) ∧
    (withDecoder ex1 (rest true true)).dec.dialing = false ∧
    (∀ count ∈ [(0 : PulseCount), 11, 255], count.toNat = 0 ∨ 11 ≤ count.toNat) := by decide

theorem witness_ClassifierTable :
    (∀ count ∈ [(1 : PulseCount), 10], 1 ≤ count.toNat ∧ count.toNat ≤ 10) ∧
      (∀ count ∈ [(0 : PulseCount), 11, 255], count.toNat = 0 ∨ 11 ≤ count.toNat) := by decide

theorem witness_MappingPoliciesAreBijections :
    mapCount .standard 10 = mapCount .standard 10 ∧ (1 ≤ 10 ∧ 10 ≤ 10) ∧ (0 ≤ 9 ∧ 9 ≤ 9) := by decide

theorem witness_DialingFollowsTheLine :
    (∃ t, exec .dials (withDecoder ex1 (rest false false)) = .next t ∧
      (withDecoder ex1 (rest false false)).dec.dialing = false ∧ t.dec.dialing = true) ∧
    (∃ t, exec .diale (withDecoder ex1 (counting 3 false false)) = .next t ∧
      (withDecoder ex1 (counting 3 false false)).dec.dialing = true ∧ t.dec.dialing = false) :=
  ⟨⟨_, rfl, by decide, by decide⟩, _, rfl, by decide, by decide⟩

theorem witness_CleanRotationDecodes :
    let s := withDecoder ex1 (rest false false)
    s.dec.dialing = false ∧ s.dec.dbLock = false ∧ s.dec.sfInhibit = false := by decide

/-! Outcomes and output lines -/

theorem witness_OutcomesAreKeptApart :
    (∃ t, exec .tick (withRegs ex2 playingSup) = .next t) ∧
      exec (.tone 31 1) (idle ex1 0) = .fault (.contractViolation 31) ∧
      exec (.tone 31 1) (withRegs ex2 playingSup) = .refused (.notEnabled 0x201F0001) :=
  ⟨⟨_, rfl⟩, rfl, rfl⟩

/-- Both sides of `cmd_ready`: INIT is enabled at `busy = 0`, and not enabled at `busy = 1`. -/
theorem witness_OutputLinesAndStrobes_cmdReady :
    isCommand .init = true ∧
    ((outputLines (idle ex1 0)).cmdReady = true ∧ ∃ t, exec .init (idle ex1 0) = .next t) ∧
    ((outputLines (withRegs ex2 playingSup)).cmdReady = false ∧
      exec .init (withRegs ex2 playingSup) = .refused (.notEnabled 0x10000000)) :=
  ⟨by decide, ⟨by decide, _, rfl⟩, by decide, rfl⟩
/-- `digit_valid` at the counts 1 and 10, and not at 0 and 11. -/
theorem witness_OutputLinesAndStrobes_digitValid :
    (∃ t, exec .diale (withDecoder ex1 (counting 1 false false)) = .next t ∧
      strobes (withDecoder ex1 (counting 1 false false)) t = ⟨true, false, true⟩) ∧
    (∃ t, exec .diale (withDecoder ex1 (counting 10 false false)) = .next t ∧
      strobes (withDecoder ex1 (counting 10 false false)) t = ⟨true, false, true⟩) ∧
    (∃ t, exec .diale (withDecoder ex1 (counting 0 false false)) = .next t ∧
      strobes (withDecoder ex1 (counting 0 false false)) t = ⟨false, false, true⟩) ∧
    (∃ t, exec .diale (withDecoder ex1 (counting 11 false false)) = .next t ∧
      strobes (withDecoder ex1 (counting 11 false false)) t = ⟨false, false, true⟩) :=
  ⟨⟨_, rfl, by decide⟩, ⟨_, rfl, by decide⟩, ⟨_, rfl, by decide⟩, _, rfl, by decide⟩
/-- `sf_arm` in a DIALS at rest, and not while dialing. -/
theorem witness_OutputLinesAndStrobes_sfArm :
    (∃ t, exec .dials (withDecoder ex1 (rest true true)) = .next t ∧
      strobes (withDecoder ex1 (rest true true)) t = ⟨false, true, false⟩) ∧
    (∃ t, exec .dials (withDecoder ex1 (counting 3 false false)) = .next t ∧
      strobes (withDecoder ex1 (counting 3 false false)) t = ⟨false, false, false⟩) :=
  ⟨⟨_, rfl, by decide⟩, _, rfl, by decide⟩
/-- `sf_cancel` in a qualifying PULSE while dialing, and not in a bounce or at rest. -/
theorem witness_OutputLinesAndStrobes_sfCancel :
    (∃ t, exec .pulse (withDecoder ex1 (counting 3 false true)) = .next t ∧
      strobes (withDecoder ex1 (counting 3 false true)) t = ⟨false, false, true⟩) ∧
    (∃ t, exec .pulse (withDecoder ex1 (counting 3 true false)) = .next t ∧
      strobes (withDecoder ex1 (counting 3 true false)) t = ⟨false, false, false⟩) ∧
    (∃ t, exec .pulse (withDecoder ex1 (rest false false)) = .next t ∧
      strobes (withDecoder ex1 (rest false false)) t = ⟨false, false, false⟩) :=
  ⟨⟨_, rfl, by decide⟩, ⟨_, rfl, by decide⟩, _, rfl, by decide⟩

end Sys2Proof.Tests
end

/-!
The opcode map and the playable codes (30_encoding.md R96, R97). `rowOf_of_decode` says once what a
decoded word holds; the disjointness of the rows is a fact about the table alone, because a word in two
rows makes their patterns agree wherever both masks look.
-/

namespace Sys2Proof.Encoding

open Sys2Proof.Machine

/-! ## The opcode map -/

/-- The row of the opcode map for an operation (30_encoding.md R97). -/
def rowOf (i : Instr) : OpcodeRow :=
  match i with
  | .init => ⟨"INIT", 0x10000000, 0xFFFFFFFF⟩
  | .tone _ _ => ⟨"TONE", 0x20000000, 0xFFE00000⟩
  | .tick => ⟨"TICK", 0x80000000, 0xFFFFFFFF⟩
  | .diale => ⟨"DIALE", 0x90000000, 0xFFFFFFFF⟩
  | .dials => ⟨"DIALS", 0x90000001, 0xFFFFFFFF⟩
  | .pulse => ⟨"PULSE", 0xA0000000, 0xFFFFFFFF⟩
  | .dbrel => ⟨"DBREL", 0xB0000000, 0xFFFFFFFF⟩
  | .sfinh _ => ⟨"SFINH", 0xC0000000, 0xFFFFFFFE⟩
  | .reset => ⟨"RESET", 0xF0000000, 0xFFFFFFFF⟩

/-- The operands of an operation are the operand fields that its row names (30_encoding.md R97). -/
def OperandsFrom (w : Word) (i : Instr) : Prop :=
  match i with
  | .tone sym dur => sym = symField w ∧ dur = durField w
  | .sfinh lvl => lvl = lvlField w
  | .init | .tick | .diale | .dials | .pulse | .dbrel | .reset => True

theorem rowOf_mem (i : Instr) : rowOf i ∈ opcodeRows := by
  cases i <;> simp [rowOf, opcodeRows]

theorem rowOf_mnemonic (i : Instr) : (rowOf i).mnemonic = mnemonicOf i := by
  cases i <;> rfl

/-- A mask of all ones leaves one word in its row. -/
theorem and_fullMask (w : Word) : w &&& 0xFFFFFFFF = w := BitVec.and_allOnes

/-- A word in the rows `r` and `q` holds both patterns, which therefore agree under the other's mask. -/
theorem pattern_and_mask_eq {w : Word} {r q : OpcodeRow} (hr : w &&& r.mask = r.pattern)
    (hq : w &&& q.mask = q.pattern) : r.pattern &&& q.mask = q.pattern &&& r.mask := by
  rw [← hr, ← hq, BitVec.and_assoc, BitVec.and_assoc, BitVec.and_comm r.mask]

/-- No two rows of the map have patterns that agree under both masks. -/
theorem eq_of_pattern_and_mask_eq : ∀ r ∈ opcodeRows, ∀ q ∈ opcodeRows,
    r.pattern &&& q.mask = q.pattern &&& r.mask → r = q := by decide

/-- The rows of the opcode map are disjoint (30_encoding.md R97). -/
theorem opcodeRows_disjoint {w : Word} {r q : OpcodeRow} (hr : r ∈ opcodeRows) (hq : q ∈ opcodeRows)
    (hwr : w &&& r.mask = r.pattern) (hwq : w &&& q.mask = q.pattern) : r = q :=
  eq_of_pattern_and_mask_eq r hr q hq (pattern_and_mask_eq hwr hwq)

/-- A word decodes to an operation only if it lies in the operation's row. -/
theorem rowOf_of_decode {w : Word} {i : Instr} (h : decode w = .ok i) :
    w &&& (rowOf i).mask = (rowOf i).pattern ∧ OperandsFrom w i := by
  unfold decode at h
  split_ifs at h with init tone tick diale dials pulse dbrel sfinh reset <;> cases h
  · exact ⟨(and_fullMask w).trans init, trivial⟩
  · exact ⟨tone, rfl, rfl⟩
  · exact ⟨(and_fullMask w).trans tick, trivial⟩
  · exact ⟨(and_fullMask w).trans diale, trivial⟩
  · exact ⟨(and_fullMask w).trans dials, trivial⟩
  · exact ⟨(and_fullMask w).trans pulse, trivial⟩
  · exact ⟨(and_fullMask w).trans dbrel, trivial⟩
  · exact ⟨sfinh, rfl⟩
  · exact ⟨(and_fullMask w).trans reset, trivial⟩

/-- A word that the decoder rejects lies in no row. -/
theorem not_selected_of_decode_error {w : Word} {e : Reject} (h : decode w = .error e) {r : OpcodeRow}
    (hr : r ∈ opcodeRows) : w &&& r.mask ≠ r.pattern := by
  unfold decode at h
  split_ifs at h
  simp only [opcodeRows, List.mem_cons, List.not_mem_nil, or_false] at hr
  rcases hr with rfl | rfl | rfl | rfl | rfl | rfl | rfl | rfl | rfl <;>
    simpa only [and_fullMask]

/-- Settles O5: a decoded word lies in its operation's row and a rejected word in none, and two rows
that share a word are the same row. -/
theorem decodeFollowsOpcodeMap : Obligations.DecodeFollowsOpcodeMap := by
  refine ⟨fun w i h => ?_, fun w ⟨r, hr, hw⟩ => ?_,
    fun w r hr q hq hwr hwq => opcodeRows_disjoint hr hq hwr hwq, by decide⟩
  · obtain ⟨selected, operands⟩ := rowOf_of_decode h
    refine ⟨⟨rowOf i, rowOf_mem i, rowOf_mnemonic i, selected⟩, ?_, ?_⟩
    · rintro sym dur rfl
      exact operands
    · rintro lvl rfl
      exact operands
  · cases h : decode w with
    | ok i => exact ⟨i, rfl⟩
    | error e => exact absurd hw (not_selected_of_decode_error h hr)

/-! ## Playable symbol codes -/

/-- The playable codes by their numbers (30_encoding.md R96). In each range of R95 that
`symbolOf` tests, playability is constant once MF_SUPPORTED is known. -/
theorem playable_iff_code (c : Config) (code : SymCode) :
    playable c code = true ↔
      code.toNat ≤ 11 ∨ (25 ≤ code.toNat ∧ code.toNat ≤ 28) ∨
        (12 ≤ code.toNat ∧ code.toNat ≤ 24 ∧ c.mfSupported = true) := by
  unfold playable symbolOf
  cases c.mfSupported <;> split_ifs <;> simp <;> omega

/-- A code is playable exactly when the configuration has its table entry (30_encoding.md R96). -/
theorem playable_iff_entry (c : Config) (code : SymCode) :
    playable c code = true ↔ (freq c code).isSome = true ∨ (tune c code).isSome = true := by
  unfold playable freq tune
  cases symbolOf code with
  | mf row => cases c.mfSupported <;> simp
  | sup2600 => cases c.mfSupported <;> simp
  | _ => simp

/-- A TONE presented at `busy = 0` is executed exactly when its symbol is playable
(30_encoding.md R96). -/
theorem execTone_next_iff {sym : SymCode} {dur : Millis} {s : State} (hb : s.dds.busy = false) :
    (∃ t, execTone sym dur s = .next t) ↔ playable s.config sym = true := by
  constructor
  · rintro ⟨t, h⟩
    obtain ⟨-, hp, -⟩ := execTone_eq_next h
    exact hp
  · intro hp
    exact ⟨_, (commandPort_ready hb).trans (if_pos hp)⟩

/-- Settles O15, from the code ranges, the table entries and the acceptance of TONE. -/
theorem playableCodes : Obligations.PlayableCodes :=
  ⟨fun c code => ⟨playable_iff_code c code, playable_iff_entry c code⟩,
    fun _ _ _ hb => execTone_next_iff hb⟩

end Sys2Proof.Encoding

/-!
The DDS engine (40_dds.md R121, R132, R137 to R139). Two facts carry the section: the masked and shifted
index is the plain slot `slotOf` whatever PHASE_W is (`sineIndex_eq_slotOf`), and an effective TICK is the
update `effectiveTick`, whose first event is the sample that it leaves in `sample_out`.
-/

namespace Sys2Proof.Engine

open Sys2Proof.Machine Sys2Proof.Claims

/-! ## INIT -/

theorem applyDds_noEvents (s : State) (d : Dds) : s.applyDds (d, []) = { s with dds := d } := by
  simp [State.applyDds]

/-- INIT presented at `busy = 0` writes the DDS registers only, and emits nothing (40_dds.md R121). -/
theorem execInit_ready {s : State} (hb : s.dds.busy = false) :
    execInit s = .next { s with dds := initDds s.dds } := by
  rw [execInit, commandPort_ready hb, applyDds_noEvents]

/-- Settles O13: an accepted INIT is `initDds`, and INIT with a next state was accepted at `busy = 0`. -/
theorem initIdlesTheEngine : Obligations.InitIdlesTheEngine := by
  refine ⟨fun s hb => execInit_ready hb, fun s t hb h => ?_⟩
  obtain ⟨idle, -⟩ := execInit_eq_next h
  simp [idle] at hb

/-! ## The length of a note -/

/-- Settles O18: the bound is that of the tick counter, from TICKS_PER_MS at most 65537. -/
theorem ticksOfIsExactAndFits : Obligations.TicksOfIsExactAndFits :=
  fun c ms => ⟨rfl, ticksOf_lt c ms, ticksPerMs_pos c⟩

/-! ## The table lookup -/

/-- The accumulator holds a whole number of periods of the table, 128 slots of 8 (40_dds.md R137). -/
theorem two_pow_phaseWidth (c : Config) : 2 ^ phaseWidth c = 8 * (128 * 2 ^ c.phaseExtra) := by
  rw [phaseWidth, pow_add]
  omega

/-- The wrap of the accumulator, the shift and the mask are one division and one remainder. -/
theorem sineIndex_eq_slotOf (c : Config) (phase : Nat) : sineIndex c phase = slotOf phase := by
  calc sineIndex c phase
      = (phase + 4) % 2 ^ phaseWidth c / 8 % 128 := by
        rw [sineIndex, phaseWrap, Nat.shiftRight_eq_div_pow, Nat.and_two_pow_sub_one_eq_mod _ 7]
    _ = (phase + 4) / 8 % (128 * 2 ^ c.phaseExtra) % 128 := by
        rw [two_pow_phaseWidth, Nat.mod_mul_right_div_self]
    _ = slotOf phase := Nat.mod_mul_right_mod ..

/-- The model's lookup reads the table entry of the plain slot. -/
theorem sineAt_toNat (c : Config) (phase : Nat) :
    (sineAt c phase).toNat = amplitude c (slotOf phase) := by
  have inTable : slotOf phase < 128 := Nat.mod_lt _ (by decide)
  simp [sineAt, amplitude, sineIndex_eq_slotOf, List.getD, inTable]

/-- A phase from 8k - 4 to 8k + 3 is in slot `k`, up to the period of the table. -/
theorem slotOf_eq_mod {phase k : Nat} (lower : 8 * k ≤ phase + 4) (upper : phase + 4 < 8 * k + 8) :
    slotOf phase = k % 128 := by
  have slot : (phase + 4) / 8 = k := by omega
  rw [slotOf, slot]

/-- Settles O28, from the index as plain division. -/
theorem sineIndexIsNearestSlot : Obligations.SineIndexIsNearestSlot := by
  intro c phase k lower upper
  have slot := slotOf_eq_mod lower upper
  refine ⟨(sineIndex_eq_slotOf c phase).trans slot, ?_⟩
  rw [sineAt_toNat, slot, amplitude]

/-! ## The mixer -/

/-- The mixer loses no carry: the sum fits the 8 bits of the sample (40_dds.md R139). -/
theorem mix_toNat (a b : Amp) : (mix a b).toNat = a.toNat + (b.toNat - b.toNat / 4) := by
  have quarter : b.toNat >>> 2 = b.toNat / 4 := Nat.shiftRight_eq_div_pow ..
  have ha : a.toNat < 128 := a.isLt
  have hb : b.toNat < 128 := b.isLt
  rw [mix, quarter, BitVec.toNat_ofNat]
  omega

/-- Without tone B the mixer passes tone A at full weight. -/
theorem mix_zero_toNat (a : Amp) : (mix a 0).toNat = a.toNat := by
  simp [mix_toNat]

/-- The mixer rounds tone B's three quarters up. -/
theorem mix_toNat_ceil (a b : Amp) : (mix a b).toNat = a.toNat + (3 * b.toNat + 3) / 4 := by
  rw [mix_toNat]
  omega

/-- The largest sample is 127 plus three quarters of 127, rounded up (40_dds.md R139). -/
theorem mix_le (a b : Amp) : (mix a b).toNat ≤ 223 := by
  have ha : a.toNat < 128 := a.isLt
  have hb : b.toNat < 128 := b.isLt
  rw [mix_toNat]
  omega

/-! ## An effective TICK -/

/-- A TICK at `out_en = 1` is effective (40_dds.md R135). -/
theorem execTick_effective {s : State} (ho : s.dds.outEn = true) :
    execTick s = .next (s.applyDds (effectiveTick s.config s.dds)) := by
  simp [execTick, tickEnabled, ho]

/-- The sample goes out before what the counter step emits (40_dds.md R135). -/
theorem effectiveTick_events (c : Config) (d : Dds) :
    (effectiveTick c d).2 =
      .sampleOut (effectiveTick c d).1.sampleOut :: (tickCounter c (tickSample c d).1).2 := by
  rw [effectiveTick_sampleOut]
  rfl

/-- Settles O29: the mixer's arithmetic, and the sample and the first event of an effective TICK. -/
theorem mixerWeightsAndRange : Obligations.MixerWeightsAndRange := by
  refine ⟨fun a b => ⟨mix_toNat a b, mix_toNat_ceil a b, mix_le a b⟩, by decide, by decide,
    fun s ho => ⟨_, (tickCounter s.config (tickSample s.config s.dds).1).2,
      execTick_effective ho, ?_, ?_⟩⟩
  · rw [applyDds_dds, effectiveTick_sampleOut, effectiveTick_phaseA, effectiveTick_phaseB, sampleB]
  · rw [applyDds_outputs, effectiveTick_events, applyDds_dds]

/-- With `stepB = 0` tone B is silent, whatever its phase (40_dds.md R138). -/
theorem effectiveTick_sampleOut_single (c : Config) {d : Dds} (single : d.stepB = 0) :
    (effectiveTick c d).1.sampleOut = mix (sineAt c (advancePhase c d.phaseA d.stepA)) 0 := by
  rw [effectiveTick_sampleOut, sampleB, if_pos single]

/-- Settles O30: the sample of a single tone is a function of tone A alone. -/
theorem singleToneIgnoresPhaseB : Obligations.SingleToneIgnoresPhaseB := by
  intro s phaseB ho single
  have sample := effectiveTick_sampleOut_single s.config single
  have sample' := effectiveTick_sampleOut_single s.config (d := { s.dds with phaseB }) single
  refine ⟨_, _, execTick_effective ho, execTick_effective ho, sample.trans sample'.symm, ?_⟩
  rw [applyDds_dds, sample, mix_zero_toNat, sineAt_toNat, effectiveTick_phaseA]

end Sys2Proof.Engine

/-!
The pulse decoder (41_decoder.md R172 to R180). DIALS and DIALE branch on `dialing` and PULSE on `db_lock`,
with one equation for each branch. RESET apart, DBREL alone can clear the lock: the DDS operations write no
decoder register, and DIALS, DIALE and SFINH write others.
-/

namespace Sys2Proof.PulseDecoder

open Sys2Proof.Machine Sys2Proof.Claims

/-! ## The operations, branch by branch -/

theorem applyDec_noEvents (s : State) (d : Decoder) : s.applyDec (d, []) = { s with dec := d } := by
  simp [State.applyDec]

/-- DIALS while dialing is no transition of the line (41_decoder.md R175). -/
theorem execDials_dialing {s : State} (hd : s.dec.dialing = true) : execDials s = .next s :=
  if_pos hd

/-- DIALS at rest arms counting (41_decoder.md R174). -/
theorem execDials_rest {s : State} (hd : s.dec.dialing = false) :
    execDials s = .next (s.applyDec ({ s.dec with dialing := true, pulseCount := 0 }, [.sfArm])) := by
  simp [execDials, hd]

/-- DIALS is no transition of the line, or it arms counting. -/
theorem execDials_eq_next {s t : State} (h : execDials s = .next t) :
    (s.dec.dialing = true ∧ t = s) ∨ (s.dec.dialing = false ∧
      t = s.applyDec ({ s.dec with dialing := true, pulseCount := 0 }, [.sfArm])) := by
  cases hd : s.dec.dialing with
  | false => exact .inr ⟨rfl, Host.Outcome.next.inj (h.symm.trans (execDials_rest hd))⟩
  | true => exact .inl ⟨rfl, Host.Outcome.next.inj (h.symm.trans (execDials_dialing hd))⟩

/-- DIALE at rest is no transition of the line (41_decoder.md R175). -/
theorem execDiale_rest {s : State} (hd : s.dec.dialing = false) : execDiale s = .next s := by
  simp [execDiale, hd]

/-- DIALE while dialing hands the classified digit out (41_decoder.md R180). -/
theorem execDiale_dialing {s : State} (hd : s.dec.dialing = true) :
    execDiale s = .next (s.applyDec (
      { s.dec with dialing := false, digit := classify s.config.mapPolicy s.dec.pulseCount },
      [.sfCancel, digitEvent (classify s.config.mapPolicy s.dec.pulseCount)])) :=
  if_pos hd

/-- DIALE is no transition of the line, or it hands the classified digit out. -/
theorem execDiale_eq_next {s t : State} (h : execDiale s = .next t) :
    (s.dec.dialing = false ∧ t = s) ∨ (s.dec.dialing = true ∧
      t = s.applyDec (
        { s.dec with dialing := false, digit := classify s.config.mapPolicy s.dec.pulseCount },
        [.sfCancel, digitEvent (classify s.config.mapPolicy s.dec.pulseCount)])) := by
  cases hd : s.dec.dialing with
  | false => exact .inl ⟨rfl, Host.Outcome.next.inj (h.symm.trans (execDiale_rest hd))⟩
  | true => exact .inr ⟨rfl, Host.Outcome.next.inj (h.symm.trans (execDiale_dialing hd))⟩

/-- A PULSE under the lock is a bounce (41_decoder.md R176). -/
theorem execPulse_locked {s : State} (hl : s.dec.dbLock = true) : execPulse s = .next s := by
  simp [execPulse, qualifying, hl]

/-- A PULSE without the lock is qualifying, and sets the lock (41_decoder.md R176, R177). -/
theorem execPulse_unlocked {s : State} (hl : s.dec.dbLock = false) :
    execPulse s = .next (s.applyDec (
      { s.dec with
        dbLock := true
        pulseCount := if counted s.dec then countPulse s.dec.pulseCount else s.dec.pulseCount },
      if s.dec.dialing then [.sfCancel] else [])) := by
  simp [execPulse, qualifying, hl]

/-! ## The dial-active line -/

/-- Settles O45, by the two levels of `dialing`. -/
theorem dialsArmsCounting : Obligations.DialsArmsCounting :=
  ⟨fun _ hd => execDials_rest hd, fun _ hd => execDials_dialing hd⟩

/-- Settles O46, from the two branches that are no transition of the line. -/
theorem repeatedLineLevelsHaveNoEffect : Obligations.RepeatedLineLevelsHaveNoEffect :=
  ⟨fun _ hd => execDials_dialing hd, fun _ hd => execDiale_rest hd⟩

/-- A count outside 1..10 decodes to OFF under every policy (41_decoder.md R172). -/
theorem classify_outOfRange (p : MapPolicy) {count : PulseCount}
    (outside : count.toNat = 0 ∨ 11 ≤ count.toNat) : classify p count = offCode := by
  have invalid : ¬(1 ≤ count.toNat ∧ count.toNat ≤ 10) := by omega
  exact if_neg invalid

/-- Settles O51, by the two levels of `dialing` and the validation of the count. -/
theorem dialeClassifiesCount : Obligations.DialeClassifiesCount :=
  ⟨fun _ hd => execDiale_dialing hd, fun _ hd => execDiale_rest hd,
    fun p _ outside => classify_outOfRange p outside, by decide⟩

/-! ## The pulse line -/

/-- The counter goes up by one and stays at 255 (41_decoder.md R177, R181). -/
theorem countPulse_eq_ite (count : PulseCount) :
    countPulse count = if count = 255 then 255 else count + 1 := by
  split_ifs with full
  · rw [full]
    rfl
  · have room : count.toNat + 1 ≤ 255 := by bv_omega
    simp [countPulse, Nat.min_eq_left room, BitVec.ofNat_add]

/-- Settles O47. A qualifying edge writes the lock in every state; `dialing` decides the event, and
`dialing` with `sf_inhibit` the count. -/
theorem pulseCountsQualifyingEdges : Obligations.PulseCountsQualifyingEdges := by
  refine ⟨fun s hl => execPulse_locked hl, fun s hl hd => ?rest, fun s hl hd hi => ?inhibited,
    fun s hl hd hi => ?counted⟩
  case rest =>
    have uncounted : counted s.dec = false := by simp [counted, hd]
    exact (execPulse_unlocked hl).trans (by simp [State.applyDec, uncounted, hd])
  case inhibited =>
    have uncounted : counted s.dec = false := by simp [counted, hi]
    exact (execPulse_unlocked hl).trans (by simp [State.applyDec, uncounted, hd])
  case counted =>
    have isCounted : counted s.dec = true := by simp [counted, hd, hi]
    exact (execPulse_unlocked hl).trans
      (by simp [State.applyDec, isCounted, hd, countPulse_eq_ite])

/-! ## DBREL and SFINH -/

/-- Settles O49: DBREL writes the lock only, and emits nothing. -/
theorem dbrelClearsLock : Obligations.DbrelClearsLock :=
  fun s => congrArg Host.Outcome.next (applyDec_noEvents s { s.dec with dbLock := false })

/-- Settles O50: SFINH writes the inhibit level only, and emits nothing. -/
theorem sfinhLatchesLevel : Obligations.SfinhLatchesLevel :=
  fun s lvl => congrArg Host.Outcome.next (applyDec_noEvents s { s.dec with sfInhibit := lvl })

/-! ## The debounce lock -/

/-- No operation of the DDS engine writes a decoder register (10_state.md R45). -/
theorem dec_of_isDdsOp {i : Instr} {s t : State} (dds : isDdsOp i = true) (h : exec i s = .next t) :
    t.dec = s.dec := by
  cases i with
  | init =>
    obtain ⟨-, rfl⟩ := execInit_eq_next h
    rfl
  | tone sym dur =>
    obtain ⟨-, -, rfl⟩ := execTone_eq_next h
    rfl
  | tick =>
    obtain ⟨-, rfl⟩ | ⟨-, rfl⟩ := execTick_eq_next h <;> rfl
  | diale | dials | pulse | dbrel | sfinh lvl | reset => simp [isDdsOp] at dds

/-- The lock is set until the next DBREL, or RESET (41_decoder.md R176). -/
theorem dbLock_kept {i : Instr} {s t : State} (h : exec i s = .next t) (hl : s.dec.dbLock = true) :
    i = .dbrel ∨ i = .reset ∨ t.dec.dbLock = true := by
  cases i with
  | init | tone sym dur | tick =>
    rw [dec_of_isDdsOp rfl h]
    exact .inr (.inr hl)
  | dials => obtain ⟨-, rfl⟩ | ⟨-, rfl⟩ := execDials_eq_next h <;> exact .inr (.inr hl)
  | diale => obtain ⟨-, rfl⟩ | ⟨-, rfl⟩ := execDiale_eq_next h <;> exact .inr (.inr hl)
  | pulse =>
    cases (execPulse_locked hl).symm.trans h
    exact .inr (.inr hl)
  | sfinh lvl =>
    cases h
    exact .inr (.inr hl)
  | dbrel => exact .inl rfl
  | reset => exact .inr (.inl rfl)

/-- Settles O48: a bounce has no effect, a qualifying edge sets the lock, and only DBREL and RESET do not
keep it. -/
theorem lockHoldsUntilRelease : Obligations.LockHoldsUntilRelease := by
  refine ⟨fun s hl => execPulse_locked hl, fun s hl => ⟨_, execPulse_unlocked hl, rfl⟩,
    fun i s t h hl released => ?_⟩
  obtain isDbrel | isReset | kept := dbLock_kept h hl
  · exact .inl isDbrel
  · exact .inr isReset
  · simp [released] at kept

end Sys2Proof.PulseDecoder

/-!
The fault of the model (60_exceptions.md R201). A line event has a next state whatever the state, so that a
fault comes from a command; INIT never raises one, and TONE raises ContractViolation exactly when it is
accepted with an unplayable symbol.
-/

namespace Sys2Proof.Exceptions

open Sys2Proof.Machine

/-! ## Line events never fault -/

/-- A TICK at `out_en = 0` has no effect (40_dds.md R135). -/
theorem execTick_gated {s : State} (ho : s.dds.outEn = false) : execTick s = .next s := by
  simp [execTick, tickEnabled, ho]

/-- An operation that is no command has a next state in every state (60_exceptions.md R202). -/
theorem exec_next_of_lineEvent {i : Instr} (line : isCommand i = false) (s : State) :
    ∃ t, exec i s = .next t := by
  cases i with
  | init | tone sym dur => simp [isCommand] at line
  | tick =>
    cases ho : s.dds.outEn with
    | false => exact ⟨_, execTick_gated ho⟩
    | true => exact ⟨_, Engine.execTick_effective ho⟩
  | diale =>
    cases hd : s.dec.dialing with
    | false => exact ⟨_, PulseDecoder.execDiale_rest hd⟩
    | true => exact ⟨_, PulseDecoder.execDiale_dialing hd⟩
  | dials =>
    cases hd : s.dec.dialing with
    | false => exact ⟨_, PulseDecoder.execDials_rest hd⟩
    | true => exact ⟨_, PulseDecoder.execDials_dialing hd⟩
  | pulse =>
    cases hl : s.dec.dbLock with
    | false => exact ⟨_, PulseDecoder.execPulse_unlocked hl⟩
    | true => exact ⟨_, PulseDecoder.execPulse_locked hl⟩
  | dbrel | sfinh lvl | reset => exact ⟨_, rfl⟩

/-- An operation that faults is a command. -/
theorem isCommand_of_exec_fault {i : Instr} {s : State} {f : Fault} (h : exec i s = .fault f) :
    isCommand i = true := by
  by_contra line
  obtain ⟨t, next⟩ := exec_next_of_lineEvent (Bool.eq_false_of_not_eq_true line) s
  cases next.symm.trans h

/-! ## Commands -/

/-- The handshake itself raises no fault: a command that faults was accepted (30_encoding.md R93). -/
theorem commandPort_eq_fault {i : Instr} {s : State} {effect : State → Result} {f : Fault}
    (h : commandPort i s effect = .fault f) : s.dds.busy = false ∧ effect s = .fault f := by
  cases hb : s.dds.busy with
  | false => exact ⟨rfl, (commandPort_ready hb).symm.trans h⟩
  | true => cases (commandPort_busy hb).symm.trans h

/-- INIT has no condition but the handshake, and raises no fault (40_dds.md R121). -/
theorem execInit_ne_fault (s : State) (f : Fault) : execInit s ≠ .fault f := by
  intro h
  obtain ⟨hb, -⟩ := commandPort_eq_fault h
  cases (Engine.execInit_ready hb).symm.trans h

/-- An accepted TONE of an unplayable symbol is a contract violation (40_dds.md R133). -/
theorem execTone_unplayable {sym : SymCode} {dur : Millis} {s : State} (hb : s.dds.busy = false)
    (hp : playable s.config sym = false) : execTone sym dur s = .fault (.contractViolation sym) := by
  rw [execTone, commandPort_ready hb, hp]
  rfl

/-- A TONE that faults was accepted, its symbol is unplayable, and the fault carries the symbol. -/
theorem execTone_eq_fault {sym : SymCode} {dur : Millis} {s : State} {f : Fault}
    (h : execTone sym dur s = .fault f) :
    s.dds.busy = false ∧ playable s.config sym = false ∧ f = .contractViolation sym := by
  obtain ⟨hb, -⟩ := commandPort_eq_fault h
  cases hp : playable s.config sym with
  | false => exact ⟨hb, rfl, Host.Outcome.fault.inj (h.symm.trans (execTone_unplayable hb hp))⟩
  | true =>
    obtain ⟨t, next⟩ := (Encoding.execTone_next_iff (dur := dur) hb).mpr hp
    cases next.symm.trans h

/-- TONE alone faults, and by ContractViolation alone (60_exceptions.md R201). -/
theorem exec_eq_fault {i : Instr} {s : State} {f : Fault} (h : exec i s = .fault f) :
    ∃ sym dur, i = .tone sym dur ∧ s.dds.busy = false ∧ playable s.config sym = false ∧
      f = .contractViolation sym := by
  cases i with
  | init => exact absurd h (execInit_ne_fault s f)
  | tone sym dur => exact ⟨sym, dur, rfl, execTone_eq_fault h⟩
  | tick | diale | dials | pulse | dbrel | sfinh lvl | reset =>
    exact absurd (isCommand_of_exec_fault h) Bool.false_ne_true

/-! ## Sequences of operations -/

/-- A sequence goes on from the next state of its first operation. -/
theorem execAll_cons_of_next {i : Instr} {s t : State} (h : exec i s = .next t) (rest : List Instr) :
    execAll (i :: rest) s = execAll rest t := by
  rw [execAll, h]

/-- A sequence stops at the fault of its first operation (60_exceptions.md R202). -/
theorem execAll_cons_of_fault {i : Instr} {s : State} {f : Fault} (h : exec i s = .fault f)
    (rest : List Instr) : execAll (i :: rest) s = .fault f := by
  rw [execAll, h]

/-- A sequence stops at the refusal of its first operation (60_exceptions.md R202). -/
theorem execAll_cons_of_refused {i : Instr} {s : State} {r : Refusal} (h : exec i s = .refused r)
    (rest : List Instr) : execAll (i :: rest) s = .refused r := by
  rw [execAll, h]

/-- What is appended to a sequence that has faulted is not reached. -/
theorem execAll_append_of_fault {before : List Instr} {s : State} {f : Fault}
    (h : execAll before s = .fault f) (later : List Instr) : execAll (before ++ later) s = .fault f := by
  induction before generalizing s with
  | nil => cases h
  | cons i rest ih =>
    rw [List.cons_append]
    cases first : exec i s with
    | next t =>
      rw [execAll_cons_of_next first] at h ⊢
      exact ih h
    | fault g =>
      rw [execAll_cons_of_fault first] at h ⊢
      exact h
    | refused r =>
      rw [execAll_cons_of_refused first] at h
      cases h

/-- Settles O22: the unplayable TONE, the case split of a fault over the operations, and the induction
over the sequence that has faulted. -/
theorem onlyUnplayableToneFaults : Obligations.OnlyUnplayableToneFaults :=
  ⟨fun _ _ _ hb hp => execTone_unplayable hb hp, fun _ _ _ h => exec_eq_fault h,
    fun _ later _ _ h => execAll_append_of_fault h later⟩

end Sys2Proof.Exceptions

/-!
RESET (70_reset_and_hazards.md R240). It is the platform's own line and passes no handshake, so that it takes
effect in every state, `busy = 1` included; the value `sample_out` takes is the next unspecified one.
-/

namespace Sys2Proof.Reset

open Sys2Proof.Machine

/-- RESET has no condition: it resets the block in every state (40_dds.md R120). -/
theorem exec_reset (s : State) : exec .reset s = .next s.resetBlock := rfl

/-- Settles O12: the block's reset, with the unspecified value that is drawn for `sample_out`. -/
theorem resetRestoresRegisters : Obligations.ResetRestoresRegisters :=
  fun s => ⟨Config.unspecifiedSample s.freeCount, s.freeCount + 1, exec_reset s⟩

end Sys2Proof.Reset

/-!
The stimulus word (30_encoding.md R91 to R94, R98; 20_memory.md R69). A word is the fields of its format put
side by side; so a word that lies in a row of the opcode map, and one that is well formed, is the encoding
of the operation which its class and its operand fields name.
-/

namespace Sys2Proof.RoundTrip

open Sys2Proof.Machine Sys2Proof.Encoding

/-! ## A word as the fields of its format -/

/-- Two fields that meet are one field. -/
theorem extract_append {len start len' : Nat} (w : Word) :
    w.extractLsb' (start + len) len' ++ w.extractLsb' start len = w.extractLsb' start (len' + len) :=
  BitVec.extractLsb'_append_extractLsb'_eq_extractLsb' rfl

/-- The fields of formats Z and L, side by side (30_encoding.md R92). -/
theorem formatZ_fields (w : Word) :
    opField w ++ w.extractLsb' 1 27 ++ w.extractLsb' 0 1 = w := by
  have upper : opField w ++ w.extractLsb' 1 27 = w.extractLsb' 1 31 := extract_append w
  have whole : w.extractLsb' 1 31 ++ w.extractLsb' 0 1 = w.extractLsb' 0 32 := extract_append w
  rw [upper, whole, BitVec.extractLsb'_eq_self]

/-- The fields of format T, side by side (30_encoding.md R92). -/
theorem formatT_fields (w : Word) :
    opField w ++ w.extractLsb' 21 7 ++ symField w ++ durField w = w := by
  have upper : opField w ++ w.extractLsb' 21 7 = w.extractLsb' 21 11 := extract_append w
  have sym : w.extractLsb' 21 11 ++ symField w = w.extractLsb' 16 16 := extract_append w
  have whole : w.extractLsb' 16 16 ++ durField w = w.extractLsb' 0 32 := extract_append w
  rw [upper, sym, whole, BitVec.extractLsb'_eq_self]

/-- The `sub` field is the bit that `lvl` is read from. -/
theorem extract_zero_one (w : Word) : w.extractLsb' 0 1 = BitVec.ofBool (lvlField w) := by
  ext k hk
  obtain rfl : k = 0 := by omega
  simp [lvlField]

/-- A word of class `op` with its middle bits 0 and `sub` in bit 0 is in format Z. -/
theorem eq_formatZ {w : Word} (zeros : w.extractLsb' 1 27 = 0) :
    w = formatZ (opField w) (w.extractLsb' 0 1) := by
  rw [formatZ, ← zeros, formatZ_fields]

theorem eq_formatL {w : Word} (zeros : w.extractLsb' 1 27 = 0) :
    w = formatL (opField w) (lvlField w) := by
  rw [formatL, ← extract_zero_one, ← zeros, formatZ_fields]

theorem eq_formatT {w : Word} (zeros : w.extractLsb' 21 7 = 0) :
    w = formatT (opField w) (symField w) (durField w) := by
  rw [formatT, ← zeros, formatT_fields]

theorem symField_formatT (op : BitVec 4) (sym : SymCode) (dur : Millis) :
    symField (formatT op sym dur) = sym := by
  rw [symField, formatT, BitVec.extractLsb'_append_eq_of_le (by decide)]
  exact BitVec.extractLsb'_append_eq_right

theorem durField_formatT (op : BitVec 4) (sym : SymCode) (dur : Millis) :
    durField (formatT op sym dur) = dur :=
  BitVec.extractLsb'_append_eq_right

theorem opField_formatT (op : BitVec 4) (sym : SymCode) (dur : Millis) :
    opField (formatT op sym dur) = op := by
  rw [opField, formatT, BitVec.extractLsb'_append_eq_of_le (by decide),
    BitVec.extractLsb'_append_eq_of_le (by decide)]
  exact BitVec.extractLsb'_append_eq_left

theorem zeros_formatT (op : BitVec 4) (sym : SymCode) (dur : Millis) :
    (formatT op sym dur).extractLsb' 21 7 = 0 := by
  rw [formatT, BitVec.extractLsb'_append_eq_of_le (by decide),
    BitVec.extractLsb'_append_eq_of_le (by decide)]
  exact BitVec.extractLsb'_append_eq_right

/-! ## Decoding the encoded operation -/

/-- A mnemonic names one row of the opcode map. -/
theorem eq_of_mnemonic_eq : ∀ r ∈ opcodeRows, ∀ q ∈ opcodeRows, r.mnemonic = q.mnemonic → r = q := by
  decide

/-- The word of a TONE lies in TONE's row (30_encoding.md R97). -/
theorem encode_tone_in_row (sym : SymCode) (dur : Millis) :
    encode (.tone sym dur) &&& 0xFFE00000 = 0x20000000 := by
  obtain ⟨r, mem, mnemonic, selected⟩ := Laws.EncodedInItsRow.tone sym dur
  obtain rfl : r = rowOf (.tone sym dur) :=
    eq_of_mnemonic_eq r mem _ (rowOf_mem _) (mnemonic.trans (rowOf_mnemonic _).symm)
  exact beq_iff_eq.mp selected

/-- TONE is the one operation with operands wider than a bit: its row is told from INIT's by the class, and
the operand fields read back what format T laid down. -/
theorem decode_encode_tone (sym : SymCode) (dur : Millis) :
    decode (encode (.tone sym dur)) = .ok (.tone sym dur) := by
  have notInit : encode (.tone sym dur) ≠ 0x10000000 := by
    intro h
    have op := congrArg opField h
    rw [encode, opField_formatT] at op
    exact absurd op (by decide)
  rw [decode, if_neg notInit, if_pos (encode_tone_in_row sym dur), encode, symField_formatT,
    durField_formatT]

theorem decode_encode (i : Instr) : decode (encode i) = .ok i := by
  cases i with
  | tone sym dur => exact decode_encode_tone sym dur
  | sfinh lvl => cases lvl <;> rfl
  | init | tick | diale | dials | pulse | dbrel | reset => rfl

/-- Settles O2. -/
theorem decodeEncodeAgree : Obligations.DecodeEncodeAgree := decode_encode

/-! ## Encoding what a word decodes to -/

/-- A field that a row's mask takes whole is the pattern's field. -/
theorem extract_of_selected {w mask pattern : Word} (selected : w &&& mask = pattern)
    (start len : Nat) (whole : mask.extractLsb' start len = BitVec.allOnes len) :
    w.extractLsb' start len = pattern.extractLsb' start len := by
  rw [← selected, BitVec.extractLsb'_and, whole, BitVec.and_allOnes]

/-- A word decodes to an operation only if it is the operation's word (30_encoding.md R92, R97). -/
theorem encode_of_decode {w : Word} {i : Instr} (h : decode w = .ok i) : encode i = w := by
  obtain ⟨selected, operands⟩ := rowOf_of_decode h
  cases i with
  | tone sym dur =>
    obtain ⟨rfl, rfl⟩ := operands
    replace selected : w &&& 0xFFE00000 = 0x20000000 := selected
    have op : opField w = 0x2 := extract_of_selected selected 28 4 (by decide)
    have zeros : w.extractLsb' 21 7 = 0 := extract_of_selected selected 21 7 rfl
    rw [encode, ← op, ← eq_formatT zeros]
  | sfinh lvl =>
    obtain rfl : lvl = lvlField w := operands
    replace selected : w &&& 0xFFFFFFFE = 0xC0000000 := selected
    have op : opField w = 0xC := extract_of_selected selected 28 4 (by decide)
    have zeros : w.extractLsb' 1 27 = 0 := extract_of_selected selected 1 27 rfl
    rw [encode, ← op, ← eq_formatL zeros]
  | init | tick | diale | dials | pulse | dbrel | reset =>
    exact ((and_fullMask w).symm.trans selected).symm

/-- Settles O3. -/
theorem encodeDecodeAgree : Obligations.EncodeDecodeAgree := fun _ _ => encode_of_decode

/-! ## Well-formed words -/

/-- The classes of format Z (30_encoding.md R92, R97). -/
def IsZClass (op : BitVec 4) : Prop :=
  op = 0x1 ∨ op = 0x8 ∨ op = 0x9 ∨ op = 0xA ∨ op = 0xB ∨ op = 0xF

/-- Well-formed words, format by format (30_encoding.md R92, R98). -/
theorem wellFormedWord_iff (w : Word) :
    wellFormedWord w = true ↔
      (opField w = 0x2 ∧ w.extractLsb' 21 7 = 0) ∨ (opField w = 0xC ∧ w.extractLsb' 1 27 = 0) ∨
        (IsZClass (opField w) ∧ w.extractLsb' 1 27 = 0 ∧
          (w.extractLsb' 0 1 = 0 ∨ opField w = 0x9)) := by
  have op : w.extractLsb' 28 4 = opField w := rfl
  rw [wellFormedWord, op]
  by_cases t : opField w = 0x2
  · simp [t, classFormat, IsZClass]
  by_cases l : opField w = 0xC
  · simp [l, classFormat, IsZClass]
  by_cases z : IsZClass (opField w)
  · have fmt : classFormat (opField w) = some .z := by
      rw [classFormat, if_neg t, if_neg l]
      exact if_pos z
    simp only [fmt, t, l, z, false_and, false_or, true_and, Bool.and_eq_true, Bool.or_eq_true,
      beq_iff_eq]
  · have fmt : classFormat (opField w) = none := by
      rw [classFormat, if_neg t, if_neg l]
      exact if_neg z
    simp only [fmt, t, l, z, false_and, or_self, Bool.false_eq_true]

/-- Class and `sub` of format Z name an operation; `sub` is 0 but in class 0x9, which has two
(30_encoding.md R92, R97). -/
theorem exists_encode_eq_formatZ {op : BitVec 4} {sub : BitVec 1} (z : IsZClass op)
    (named : sub = 0 ∨ op = 0x9) : ∃ i, encode i = formatZ op sub := by
  obtain rfl | rfl := named
  · obtain rfl | rfl | rfl | rfl | rfl | rfl := z
    · exact ⟨.init, rfl⟩
    · exact ⟨.tick, rfl⟩
    · exact ⟨.diale, rfl⟩
    · exact ⟨.pulse, rfl⟩
    · exact ⟨.dbrel, rfl⟩
    · exact ⟨.reset, rfl⟩
  · obtain rfl | rfl := BitVec.eq_zero_or_eq_one sub
    · exact ⟨.diale, rfl⟩
    · exact ⟨.dials, rfl⟩

/-- A well-formed word is the encoding of an operation: the one of its class, with its operand fields
(30_encoding.md R92, R94). -/
theorem exists_encode_eq_of_wellFormed {w : Word} (wf : wellFormedWord w = true) :
    ∃ i, encode i = w := by
  obtain ⟨op, zeros⟩ | ⟨op, zeros⟩ | ⟨z, zeros, named⟩ := (wellFormedWord_iff w).mp wf
  · exact ⟨.tone (symField w) (durField w), by rw [encode, ← op, ← eq_formatT zeros]⟩
  · exact ⟨.sfinh (lvlField w), by rw [encode, ← op, ← eq_formatL zeros]⟩
  · rw [eq_formatZ zeros]
    exact exists_encode_eq_formatZ z named

/-- Every encoding is a well-formed word. -/
theorem wellFormedWord_encode (i : Instr) : wellFormedWord (encode i) = true := by
  cases i with
  | tone sym dur => exact (wellFormedWord_iff _).mpr (.inl ⟨opField_formatT .., zeros_formatT ..⟩)
  | sfinh lvl => cases lvl <;> rfl
  | init | tick | diale | dials | pulse | dbrel | reset => rfl

/-- Decoding names the words that are encodings, and those are the well-formed ones. -/
theorem decodes_iff_wellFormed (w : Word) : (∃ i, decode w = .ok i) ↔ wellFormedWord w = true := by
  constructor
  · rintro ⟨i, h⟩
    rw [← encode_of_decode h]
    exact wellFormedWord_encode i
  · intro wf
    obtain ⟨i, rfl⟩ := exists_encode_eq_of_wellFormed wf
    exact ⟨i, decode_encode i⟩

/-- Settles O4. -/
theorem decodesExactlyWellFormedWords : Obligations.DecodesExactlyWellFormedWords :=
  decodes_iff_wellFormed

/-- Settles O1: each word is the encoding of the operation it stands for. -/
theorem specWordsDecode : Obligations.SpecWordsDecode :=
  ⟨decode_encode .init, decode_encode (.tone 5 100), decode_encode (.tone 24 1500),
    decode_encode .tick, decode_encode .diale, decode_encode .dials, decode_encode .pulse,
    decode_encode .dbrel, decode_encode (.sfinh true), decode_encode .reset⟩

/-! ## Trace bytes -/

/-- The bytes of a word read back as the word (20_memory.md R69). -/
theorem wordOfBytes_bytesOfWord (w : Word) :
    wordOfBytes (w.extractLsb' 0 8) (w.extractLsb' 8 8) (w.extractLsb' 16 8) (w.extractLsb' 24 8) =
      w := by
  have b3 : w.extractLsb' 24 8 ++ w.extractLsb' 16 8 = w.extractLsb' 16 16 := extract_append w
  have b2 : w.extractLsb' 16 16 ++ w.extractLsb' 8 8 = w.extractLsb' 8 24 := extract_append w
  have b1 : w.extractLsb' 8 24 ++ w.extractLsb' 0 8 = w.extractLsb' 0 32 := extract_append w
  rw [wordOfBytes, b3, b2, b1, BitVec.extractLsb'_eq_self]

/-- The bytes of a word are its base-256 digits, least significant first (20_memory.md R69). -/
theorem bytesOfWord_digits (w : Word) : (bytesOfWord w).map BitVec.toNat =
    [w.toNat % 256, w.toNat / 256 % 256, w.toNat / 65536 % 256, w.toNat / 16777216] := by
  have top : w.toNat / 16777216 % 256 = w.toNat / 16777216 := by
    have hw : w.toNat < 4294967296 := w.isLt
    omega
  simp [bytesOfWord, BitVec.extractLsb'_toNat, Nat.shiftRight_eq_div_pow, top]

/-- What a trace holds after its first word does not change what that word decodes to. -/
theorem decodeBytes_encode (i : Instr) (rest : List Byte) :
    decodeBytes (bytesOfWord (encode i) ++ rest) = .ok (i, rest) := by
  simp only [bytesOfWord, List.cons_append, List.nil_append, decodeBytes, wordOfBytes_bytesOfWord,
    decode_encode]

/-- Settles O6. -/
theorem traceBytesRoundTrip : Obligations.TraceBytesRoundTrip :=
  ⟨bytesOfWord_digits, decodeBytes_encode⟩

end Sys2Proof.RoundTrip

/-!
The note list and the sequencer (40_dds.md R130 to R134, R140, R143, R144). NEXT finds the first note of
non-zero length, or there is none: an accepted TONE and the TICK that ends a note branch on this alone, so
`startTone` and `effectiveTick` have one equation for each case.
-/

namespace Sys2Proof.Sequencer

open Sys2Proof.Machine Sys2Proof.Claims Sys2Proof.Engine

/-! ## The tables -/

/-- A two-tone symbol has a tone B (20_memory.md R64(c)). -/
theorem dualStepB_ne_zero (d : DualTone) : dualStepB d ≠ 0 := by
  intro h
  have value := congrArg BitVec.toNat h
  have bound := d.stepBPred.isLt
  simp [dualStepB] at value
  omega

/-- The DTMF and MF codes are those below 24 (30_encoding.md R95). -/
theorem symbolOf_twoTone {code : SymCode} (h : code.toNat < 24) :
    (∃ row, symbolOf code = .dtmf row) ∨ ∃ row, symbolOf code = .mf row := by
  unfold symbolOf
  split_ifs
  · exact .inl ⟨_, rfl⟩
  · exact .inr ⟨_, rfl⟩

/-- From code 24 on no symbol is DTMF or MF (30_encoding.md R95). -/
theorem symbolOf_ne_twoTone {code : SymCode} (h : 24 ≤ code.toNat) :
    (∀ row, symbolOf code ≠ .dtmf row) ∧ ∀ row, symbolOf code ≠ .mf row := by
  have notDtmf : ¬code.toNat < 12 := by omega
  have notMf : ¬code.toNat < 24 := by omega
  unfold symbolOf
  rw [dif_neg notDtmf, dif_neg notMf]
  split_ifs <;> simp

/-- FREQ's two-tone entries are those of the codes below 24 (20_memory.md R64). -/
theorem freq_stepB {c : Config} {code : SymCode} {tone : ToneSpec} (h : freq c code = some tone) :
    (code.toNat < 24 → tone.stepB ≠ 0) ∧ (24 ≤ code.toNat → tone.stepB = 0) := by
  unfold freq at h
  refine ⟨fun low => ?_, fun high => ?_⟩
  · obtain ⟨row, dtmf⟩ | ⟨row, mf⟩ := symbolOf_twoTone low
    · rw [dtmf] at h
      cases h
      exact dualStepB_ne_zero _
    · rw [mf] at h
      dsimp only at h
      split_ifs at h
      cases h
      exact dualStepB_ne_zero _
  · obtain ⟨notDtmf, notMf⟩ := symbolOf_ne_twoTone high
    cases symbol : symbolOf code with
    | dtmf row => exact absurd symbol (notDtmf row)
    | mf row => exact absurd symbol (notMf row)
    | sup2600 =>
      rw [symbol] at h
      dsimp only at h
      split_ifs at h
      cases h
      rfl
    | beep | beepLow =>
      rw [symbol] at h
      cases h
      rfl
    | tuneAsc | tuneDesc | reserved | off => simp [symbol] at h

/-- A tune list has 1 to 3 entries (20_memory.md R66). -/
theorem tune_length {c : Config} {code : SymCode} {l : List TuneNote} (h : tune c code = some l) :
    1 ≤ l.length ∧ l.length ≤ 3 := by
  unfold tune at h
  split at h <;> cases h
  · simp
  · cases c.tuneDesc <;> simp [tuneEntries]

/-- Settles O16. -/
theorem tableConstraints : Obligations.TableConstraints :=
  ⟨fun _ _ _ h => freq_stepB h, fun _ _ _ h => tune_length h,
    fun c => ⟨c.tuneAsc.toList, rfl, c.tuneAsc.length_toList⟩⟩

/-! ## NOTES -/

/-- A code with an entry in TUNE has none in FREQ (20_memory.md R63, R65). -/
theorem freq_of_tune {c : Config} {code : SymCode} {l : List TuneNote} (h : tune c code = some l) :
    freq c code = none := by
  unfold tune at h
  unfold freq
  split at h <;> cases h <;> simp [*]

theorem notes_of_freq {c : Config} {sym : SymCode} {tone : ToneSpec} (h : freq c sym = some tone)
    (dur : Millis) : notes c sym dur = [⟨tone.stepA, tone.stepB, dur⟩] := by
  rw [notes, h]

theorem notes_of_tune {c : Config} {sym : SymCode} {l : List TuneNote} (h : tune c sym = some l)
    (dur : Millis) : notes c sym dur = l.map fun n => ⟨n.stepA, 0, n.ms⟩ := by
  rw [notes, h, freq_of_tune h]

/-- Settles O17. -/
theorem notesOfSymbol : Obligations.NotesOfSymbol := by
  refine ⟨fun c sym dur tone h => notes_of_freq h dur, fun c sym dur l h => ?_⟩
  rw [notes_of_tune h]
  refine ⟨List.length_map .., fun i n hi => ?_⟩
  rw [List.getElem?_map, hi, Option.map_some]

/-! ## NEXT -/

theorem sounding_eq_false_iff {c : Config} {n : Note} :
    sounding c n = false ↔ ticksOf c n.ms = 0 := by
  simp [sounding]

/-- NEXT passes over notes of zero length only. -/
theorem silent_before_nextNote {c : Config} {l : List Note} {i j : Nat} {m : Note} (lower : j ≤ i)
    (upper : i < nextNote c l j) (at_i : l[i]? = some m) : ticksOf c m.ms = 0 := by
  have before : i - j < (l.drop j).findIdx (sounding c) := by
    unfold nextNote at upper
    omega
  have note : (l.drop j)[i - j]? = some m := by
    rw [List.getElem?_drop, Nat.add_sub_cancel' lower, at_i]
  obtain ⟨_, rfl⟩ := List.getElem?_eq_some_iff.mp note
  exact sounding_eq_false_iff.mp (List.not_of_lt_findIdx before)

/-- Where NEXT is an index of the list, it is that of the first note of non-zero length. -/
theorem firstSounding_nextNote {c : Config} {l : List Note} {j : Nat}
    (inList : nextNote c l j < l.length) : ∃ n, FirstSounding c l j (nextNote c l j) n := by
  have index : nextNote c l j = j + (l.drop j).findIdx (sounding c) := by
    unfold nextNote at inList ⊢
    omega
  have found : (l.drop j)[(l.drop j).findIdx (sounding c)]? = some l[nextNote c l j] := by
    rw [List.getElem?_drop, ← index, List.getElem?_eq_getElem]
  have sounds := List.findIdx_of_getElem?_eq_some found
  exact ⟨_, by omega, List.getElem?_eq_getElem inList, by simpa [sounding] using sounds,
    fun _ _ => silent_before_nextNote⟩

/-- Where NEXT is no index of the list, no note from `j` on has a non-zero length. -/
theorem noneSounding_of_nextNote {c : Config} {l : List Note} {j : Nat}
    (beyond : l.length ≤ nextNote c l j) : NoneSounding c l j := by
  intro i m lower at_i
  obtain ⟨inList, -⟩ := List.getElem?_eq_some_iff.mp at_i
  exact silent_before_nextNote lower (inList.trans_le beyond) at_i

theorem not_firstSounding_of_noneSounding {c : Config} {l : List Note} {j k : Nat} {n : Note}
    (silent : NoneSounding c l j) : ¬FirstSounding c l j k n := by
  rintro ⟨lower, at_k, sounds, -⟩
  have := silent k n lower at_k
  omega

/-- There is one first note of non-zero length. -/
theorem firstSounding_index_unique {c : Config} {l : List Note} {j k k' : Nat} {n n' : Note}
    (first : FirstSounding c l j k n) (first' : FirstSounding c l j k' n') : k = k' := by
  obtain ⟨lower, at_k, sounds, silent⟩ := first
  obtain ⟨lower', at_k', sounds', silent'⟩ := first'
  obtain less | equal | greater := Nat.lt_trichotomy k k'
  · have := silent' k n lower less at_k
    omega
  · exact equal
  · have := silent k' n' lower' greater at_k'
    omega

theorem nextNote_of_firstSounding {c : Config} {l : List Note} {j k : Nat} {n : Note}
    (first : FirstSounding c l j k n) : nextNote c l j = k := by
  obtain inList | beyond := Nat.lt_or_ge (nextNote c l j) l.length
  · obtain ⟨_, first'⟩ := firstSounding_nextNote inList
    exact firstSounding_index_unique first' first
  · exact absurd first (not_firstSounding_of_noneSounding (noneSounding_of_nextNote beyond))

theorem nextNote_of_noneSounding {c : Config} {l : List Note} {j : Nat} (silent : NoneSounding c l j) :
    nextNote c l j = l.length := by
  refine Nat.le_antisymm (nextNote_le c l j) (Nat.le_of_not_lt fun inList => ?_)
  obtain ⟨_, first⟩ := firstSounding_nextNote inList
  exact not_firstSounding_of_noneSounding silent first

/-- Settles O19. -/
theorem nextIsFirstSoundingNote : Obligations.NextIsFirstSoundingNote :=
  fun _ _ _ => ⟨fun _ _ => nextNote_of_firstSounding, nextNote_of_noneSounding,
    firstSounding_nextNote⟩

/-- A note list has a first note of non-zero length from `j` on, or none. -/
theorem firstSounding_or_noneSounding (c : Config) (l : List Note) (j : Nat) :
    (∃ k n, FirstSounding c l j k n) ∨ NoneSounding c l j := by
  obtain inList | beyond := Nat.lt_or_ge (nextNote c l j) l.length
  · exact .inl ⟨_, firstSounding_nextNote inList⟩
  · exact .inr (noneSounding_of_nextNote beyond)

theorem getElem?_nextNote_of_firstSounding {c : Config} {l : List Note} {j k : Nat} {n : Note}
    (first : FirstSounding c l j k n) : l[nextNote c l j]? = some n := by
  rw [nextNote_of_firstSounding first]
  obtain ⟨-, at_k, -, -⟩ := first
  exact at_k

theorem getElem?_nextNote_of_noneSounding {c : Config} {l : List Note} {j : Nat}
    (silent : NoneSounding c l j) : l[nextNote c l j]? = none := by
  rw [nextNote_of_noneSounding silent, List.getElem?_length]

/-! ## TONE -/

/-- TONE of a playable symbol, presented at `busy = 0`, starts the tone (40_dds.md R130). -/
theorem execTone_playable {s : State} {sym : SymCode} {dur : Millis} (hb : s.dds.busy = false)
    (hp : playable s.config sym = true) :
    execTone sym dur s = .next (s.applyDds (startTone s.config s.dds sym dur)) :=
  (commandPort_ready hb).trans (if_pos hp)

/-- The registers once the tone's first note, note `k`, has started (40_dds.md R130). -/
def firstNoteLoaded (c : Config) (d : Dds) (sym : SymCode) (dur : Millis) (k : Nat) (n : Note) : Dds :=
  { loadNote c { d with curSym := sym, durArg := dur } k n with outEn := true, busy := true }

/-- The registers after a tone that had no note to sound (40_dds.md R130). -/
def silentToneEnded (c : Config) (d : Dds) (sym : SymCode) (dur : Millis) : Dds :=
  { d with
    stepA := 0, stepB := 0, tickCount := 0, target := 0,
    noteIdx := BitVec.ofNat 2 (notes c sym dur).length, curSym := sym, durArg := dur }

theorem startTone_of_firstSounding {c : Config} {sym : SymCode} {dur : Millis} {k : Nat} {n : Note}
    (first : FirstSounding c (notes c sym dur) 0 k n) (d : Dds) :
    startTone c d sym dur = (firstNoteLoaded c d sym dur k n, [.outEn true]) := by
  obtain ⟨n', note, started⟩ | ⟨beyond, -⟩ := startTone_cases c d sym dur
  · cases (getElem?_nextNote_of_firstSounding first).symm.trans note
    rw [started, nextNote_of_firstSounding first, firstNoteLoaded]
  · cases (getElem?_nextNote_of_firstSounding first).symm.trans beyond

theorem startTone_of_noneSounding {c : Config} {sym : SymCode} {dur : Millis}
    (silent : NoneSounding c (notes c sym dur) 0) (d : Dds) :
    startTone c d sym dur = (silentToneEnded c d sym dur, [.done]) := by
  obtain ⟨n, note, -⟩ | ⟨-, ended⟩ := startTone_cases c d sym dur
  · cases (getElem?_nextNote_of_noneSounding silent).symm.trans note
  · rw [ended, silentToneEnded]

/-- Settles O20. -/
theorem toneStartsFirstNote : Obligations.ToneStartsFirstNote := by
  intro s sym dur k n hb hp first
  exact (execTone_playable hb hp).trans (by rw [startTone_of_firstSounding first]; rfl)

/-- Settles O21. -/
theorem silentToneCompletesAtOnce : Obligations.SilentToneCompletesAtOnce := by
  intro s sym dur hb hp silent
  exact (execTone_playable hb hp).trans (by rw [startTone_of_noneSounding silent]; rfl)

/-! ## An effective TICK -/

/-- The sample of an effective TICK, with the phases it is read at: what every effective TICK does first
(40_dds.md R135 to R139). -/
def sampled (c : Config) (d : Dds) : Dds :=
  { d with
    phaseA := nextPhase c d.phaseA d.stepA
    phaseB := nextPhase c d.phaseB d.stepB
    sampleOut := BitVec.ofNat 8 (sampleOfTick c d) }

/-- The mixed sample in plain arithmetic (40_dds.md R138, R139). -/
theorem mix_eq_sampleOfTick (c : Config) (d : Dds) :
    mix (sineAt c (nextPhase c d.phaseA d.stepA))
        (sampleB c d.stepB (nextPhase c d.phaseB d.stepB)) =
      BitVec.ofNat 8 (sampleOfTick c d) := by
  have asNat (v : Sample) : v = BitVec.ofNat 8 v.toNat := by simp
  rw [asNat (mix _ _), mix_toNat_ceil, sineAt_toNat, sampleOfTick, sampleB]
  split_ifs with single
  · rfl
  · rw [sineAt_toNat]

theorem tickSample_eq (c : Config) (d : Dds) :
    tickSample c d = (sampled c d, [.sampleOut (BitVec.ofNat 8 (sampleOfTick c d))]) := by
  rw [sampled, ← mix_eq_sampleOfTick]
  rfl

/-- The counter goes up by one in its 32 bits (40_dds.md R140). -/
theorem ofNat_toNat_succ (count : TickCount) : BitVec.ofNat 32 (count.toNat + 1) = count + 1 := by
  simp [BitVec.ofNat_add]

/-- Before the note's last tick the counter goes up (40_dds.md R140). -/
theorem effectiveTick_within {c : Config} {d : Dds} (within : d.tickCount.toNat + 1 < d.target.toNat) :
    effectiveTick c d =
      ({ sampled c d with tickCount := d.tickCount + 1 },
        [.sampleOut (BitVec.ofNat 8 (sampleOfTick c d))]) := by
  rw [effectiveTick, tickSample_eq]
  obtain ⟨-, counts⟩ | ⟨last, -⟩ | ⟨last, -⟩ := tickCounter_cases c (sampled c d)
  · rw [counts, ← ofNat_toNat_succ]
    rfl
  · exact absurd within (Nat.not_lt.mpr last)
  · exact absurd within (Nat.not_lt.mpr last)

/-- The note's last tick loads the next note of non-zero length, when there is one (40_dds.md R143). -/
theorem effectiveTick_changes {c : Config} {d : Dds} {k : Nat} {n : Note}
    (last : d.target.toNat ≤ d.tickCount.toNat + 1)
    (first : FirstSounding c (notes c d.curSym d.durArg) (d.noteIdx.toNat + 1) k n) :
    effectiveTick c d =
      (loadNote c (sampled c d) k n, [.sampleOut (BitVec.ofNat 8 (sampleOfTick c d))]) := by
  rw [effectiveTick, tickSample_eq]
  obtain ⟨within, -⟩ | ⟨-, n', note, changes⟩ | ⟨-, beyond, -⟩ := tickCounter_cases c (sampled c d)
  · exact absurd within (Nat.not_lt.mpr last)
  · cases (getElem?_nextNote_of_firstSounding first).symm.trans note
    rw [changes, ← nextNote_of_firstSounding first]
    rfl
  · cases (getElem?_nextNote_of_firstSounding first).symm.trans beyond

/-- The last tick of the last note of non-zero length completes the tone (40_dds.md R144). -/
theorem effectiveTick_completes {c : Config} {d : Dds}
    (last : d.target.toNat ≤ d.tickCount.toNat + 1)
    (silent : NoneSounding c (notes c d.curSym d.durArg) (d.noteIdx.toNat + 1)) :
    effectiveTick c d =
      ((completeTone (sampled c d) (d.tickCount.toNat + 1) (notes c d.curSym d.durArg).length).1,
        [.sampleOut (BitVec.ofNat 8 (sampleOfTick c d)), .outEn false, .done]) := by
  rw [effectiveTick, tickSample_eq]
  obtain ⟨within, -⟩ | ⟨-, n, note, -⟩ | ⟨-, -, completes⟩ := tickCounter_cases c (sampled c d)
  · exact absurd within (Nat.not_lt.mpr last)
  · cases (getElem?_nextNote_of_noneSounding silent).symm.trans note
  · rw [completes]
    rfl

/-- An effective TICK stays in its note, changes to the next one, or completes the tone. -/
theorem effectiveTick_cases (c : Config) (d : Dds) :
    (d.tickCount.toNat + 1 < d.target.toNat ∧
        effectiveTick c d =
          ({ sampled c d with tickCount := d.tickCount + 1 },
            [.sampleOut (BitVec.ofNat 8 (sampleOfTick c d))])) ∨
      (d.target.toNat ≤ d.tickCount.toNat + 1 ∧
        ∃ k n, FirstSounding c (notes c d.curSym d.durArg) (d.noteIdx.toNat + 1) k n ∧
          effectiveTick c d =
            (loadNote c (sampled c d) k n, [.sampleOut (BitVec.ofNat 8 (sampleOfTick c d))])) ∨
      (d.target.toNat ≤ d.tickCount.toNat + 1 ∧
        NoneSounding c (notes c d.curSym d.durArg) (d.noteIdx.toNat + 1) ∧
        effectiveTick c d =
          ((completeTone (sampled c d) (d.tickCount.toNat + 1)
              (notes c d.curSym d.durArg).length).1,
            [.sampleOut (BitVec.ofNat 8 (sampleOfTick c d)), .outEn false, .done])) := by
  obtain within | last := Nat.lt_or_ge (d.tickCount.toNat + 1) d.target.toNat
  · exact .inl ⟨within, effectiveTick_within within⟩
  · obtain ⟨k, n, first⟩ | silent :=
      firstSounding_or_noneSounding c (notes c d.curSym d.durArg) (d.noteIdx.toNat + 1)
    · exact .inr (.inl ⟨last, k, n, first, effectiveTick_changes last first⟩)
    · exact .inr (.inr ⟨last, silent, effectiveTick_completes last silent⟩)

/-- Settles O24. -/
theorem gatedTickHasNoEffect : Obligations.GatedTickHasNoEffect :=
  fun _ => Exceptions.execTick_gated

/-- Settles O25. -/
theorem tickWithinNote : Obligations.TickWithinNote := by
  intro s ho within
  exact (execTick_effective ho).trans (by rw [effectiveTick_within within]; rfl)

/-- Settles O26. -/
theorem tickChangesNote : Obligations.TickChangesNote := by
  intro s k n ho last first
  exact (execTick_effective ho).trans (by rw [effectiveTick_changes last first]; rfl)

/-- Settles O27. -/
theorem tickCompletesTone : Obligations.TickCompletesTone := by
  intro s ho last silent
  refine (execTick_effective ho).trans ?_
  rw [effectiveTick_completes last silent, ← ofNat_toNat_succ]
  rfl

end Sys2Proof.Sequencer

/-!
What an operation can do (10_state.md R45; 60_exceptions.md R202, R206). An operation of the DDS engine is a
function of the configuration and the DDS registers, one of the decoder a function of the configuration and
the decoder's registers, and RESET resets both. Each half therefore writes, reads and emits its own only.
-/

namespace Sys2Proof.Operations

open Sys2Proof.Machine Sys2Proof.Claims

/-! ## The outcome of an operation -/

/-- The host's contract speaks of TONE alone (60_exceptions.md R214). -/
theorem withinContract_of_lineEvent (c : Config) {i : Instr} (line : isCommand i = false) :
    withinContract c i = true := by
  cases i with
  | tone sym dur => simp [isCommand] at line
  | init | tick | diale | dials | pulse | dbrel | sfinh lvl | reset => rfl

/-- A command presented while `busy = 1` is not enabled (60_exceptions.md R202). -/
theorem exec_command_busy {i : Instr} {s : State} (command : isCommand i = true)
    (hb : s.dds.busy = true) : exec i s = .refused (.notEnabled (encode i)) := by
  cases i with
  | init =>
    show execInit s = _
    rw [execInit, commandPort_busy hb]
  | tone sym dur =>
    show execTone sym dur s = _
    rw [execTone, commandPort_busy hb]
  | tick | diale | dials | pulse | dbrel | sfinh lvl | reset => simp [isCommand] at command

/-- A command presented at `busy = 0` within the host's contract has a next state, and it alone. -/
theorem exec_command_next_iff {i : Instr} {s : State} (command : isCommand i = true)
    (hb : s.dds.busy = false) : (∃ t, exec i s = .next t) ↔ withinContract s.config i = true := by
  cases i with
  | init => exact ⟨fun _ => rfl, fun _ => ⟨_, Engine.execInit_ready hb⟩⟩
  | tone sym dur => exact Encoding.execTone_next_iff hb
  | tick | diale | dials | pulse | dbrel | sfinh lvl | reset => simp [isCommand] at command

/-- An operation has a next state exactly when it is enabled and within the host's contract
(60_exceptions.md R202). -/
theorem exec_next_iff (i : Instr) (s : State) :
    (∃ t, exec i s = .next t) ↔
      withinContract s.config i = true ∧ (isCommand i = false ∨ s.dds.busy = false) := by
  cases command : isCommand i with
  | false =>
    exact iff_of_true (Exceptions.exec_next_of_lineEvent command s)
      ⟨withinContract_of_lineEvent _ command, .inl rfl⟩
  | true =>
    cases hb : s.dds.busy with
    | false => simpa using exec_command_next_iff command hb
    | true => simp [exec_command_busy command hb]

/-- Outside the host's contract is the TONE of an unplayable symbol (60_exceptions.md R214). -/
theorem eq_tone_of_not_withinContract {c : Config} {i : Instr} (h : withinContract c i = false) :
    ∃ sym dur, i = .tone sym dur ∧ playable c sym = false := by
  cases i with
  | tone sym dur => exact ⟨sym, dur, rfl, h⟩
  | init | tick | diale | dials | pulse | dbrel | sfinh lvl | reset => simp [withinContract] at h

/-- An enabled operation is not refused: it has a next state or it faults (60_exceptions.md R202). -/
theorem exec_ne_refused {i : Instr} {s : State} (enabled : isCommand i = false ∨ s.dds.busy = false)
    (r : Refusal) : exec i s ≠ .refused r := by
  intro h
  cases contract : withinContract s.config i with
  | true =>
    obtain ⟨t, next⟩ := (exec_next_iff i s).mpr ⟨contract, enabled⟩
    cases next.symm.trans h
  | false =>
    obtain ⟨sym, dur, rfl, unplayable⟩ := eq_tone_of_not_withinContract contract
    obtain line | idle := enabled
    · simp [isCommand] at line
    · cases (Exceptions.execTone_unplayable (dur := dur) idle unplayable).symm.trans h

/-- An operation is refused exactly when it is a command at `busy = 1` (60_exceptions.md R202). -/
theorem exec_refused_iff (i : Instr) (s : State) (r : Refusal) :
    exec i s = .refused r ↔
      isCommand i = true ∧ s.dds.busy = true ∧ r = .notEnabled (encode i) := by
  constructor
  · intro h
    have command : isCommand i = true :=
      Bool.eq_true_of_not_eq_false fun line => exec_ne_refused (.inl line) r h
    have hb : s.dds.busy = true :=
      Bool.eq_true_of_not_eq_false fun idle => exec_ne_refused (.inr idle) r h
    exact ⟨command, hb, Host.Outcome.refused.inj (h.symm.trans (exec_command_busy command hb))⟩
  · rintro ⟨command, hb, rfl⟩
    exact exec_command_busy command hb

/-- Settles O23. -/
theorem contractKeptGivesNextState : Obligations.ContractKeptGivesNextState :=
  fun i s contract enabled => (exec_next_iff i s).mpr ⟨contract, enabled⟩

/-! ## The effect of an operation on its half -/

/-- What an accepted operation of the DDS engine makes of its registers, with the events it emits
(40_dds.md R121, R130, R135). -/
def ddsEffect (i : Instr) (c : Config) (d : Dds) : Dds × List OutEvent :=
  match i with
  | .init => (initDds d, [])
  | .tone sym dur => startTone c d sym dur
  | .tick => if d.outEn then effectiveTick c d else (d, [])
  | .diale | .dials | .pulse | .dbrel | .sfinh _ | .reset => (d, [])

/-- What an operation of the decoder makes of its registers, with the events it emits
(41_decoder.md R174 to R180). -/
def decoderEffect (i : Instr) (c : Config) (d : Decoder) : Decoder × List OutEvent :=
  match i with
  | .dials =>
    if d.dialing then (d, []) else ({ d with dialing := true, pulseCount := 0 }, [.sfArm])
  | .diale =>
    if d.dialing then
      ({ d with dialing := false, digit := classify c.mapPolicy d.pulseCount },
        [.sfCancel, digitEvent (classify c.mapPolicy d.pulseCount)])
    else (d, [])
  | .pulse =>
    if d.dbLock then (d, [])
    else
      ({ d with
          dbLock := true
          pulseCount := if counted d then countPulse d.pulseCount else d.pulseCount },
        if d.dialing then [.sfCancel] else [])
  | .dbrel => ({ d with dbLock := false }, [])
  | .sfinh lvl => ({ d with sfInhibit := lvl }, [])
  | .init | .tone _ _ | .tick | .reset => (d, [])

theorem applyDds_self (s : State) : s.applyDds (s.dds, []) = s := Engine.applyDds_noEvents s s.dds

theorem applyDec_self (s : State) : s.applyDec (s.dec, []) = s :=
  PulseDecoder.applyDec_noEvents s s.dec

/-- The next state of an operation of the DDS engine is its effect on the DDS registers. -/
theorem eq_applyDds_of_exec {i : Instr} {s t : State} (dds : isDdsOp i = true)
    (h : exec i s = .next t) : t = s.applyDds (ddsEffect i s.config s.dds) := by
  cases i with
  | init =>
    obtain ⟨-, rfl⟩ := execInit_eq_next h
    rfl
  | tone sym dur =>
    obtain ⟨-, -, rfl⟩ := execTone_eq_next h
    rfl
  | tick =>
    obtain ⟨ho, rfl⟩ | ⟨ho, rfl⟩ := execTick_eq_next h
    · simp [ddsEffect, ho, applyDds_self]
    · simp [ddsEffect, ho]
  | diale | dials | pulse | dbrel | sfinh lvl | reset => simp [isDdsOp] at dds

/-- An operation of the decoder is its effect on the decoder's registers, in every state. -/
theorem exec_decoderOp {i : Instr} (decoder : isDecoderOp i = true) (s : State) :
    exec i s = .next (s.applyDec (decoderEffect i s.config s.dec)) := by
  cases i with
  | dials =>
    cases hd : s.dec.dialing with
    | false => exact (PulseDecoder.execDials_rest hd).trans (by simp [decoderEffect, hd])
    | true =>
      exact (PulseDecoder.execDials_dialing hd).trans (by simp [decoderEffect, hd, applyDec_self])
  | diale =>
    cases hd : s.dec.dialing with
    | false =>
      exact (PulseDecoder.execDiale_rest hd).trans (by simp [decoderEffect, hd, applyDec_self])
    | true => exact (PulseDecoder.execDiale_dialing hd).trans (by simp [decoderEffect, hd])
  | pulse =>
    cases hl : s.dec.dbLock with
    | false => exact (PulseDecoder.execPulse_unlocked hl).trans (by simp [decoderEffect, hl])
    | true =>
      exact (PulseDecoder.execPulse_locked hl).trans (by simp [decoderEffect, hl, applyDec_self])
  | dbrel | sfinh lvl => rfl
  | init | tone sym dur | tick | reset => simp [isDecoderOp] at decoder

/-- An operation with a next state works on the DDS engine alone, on the decoder alone, or is RESET
(10_state.md R45). -/
theorem exec_eq_next_cases {i : Instr} {s t : State} (h : exec i s = .next t) :
    (isDdsOp i = true ∧ t = s.applyDds (ddsEffect i s.config s.dds)) ∨
      (isDecoderOp i = true ∧ t = s.applyDec (decoderEffect i s.config s.dec)) ∨
      (i = .reset ∧ t = s.resetBlock) := by
  cases i with
  | init | tone sym dur | tick => exact .inl ⟨rfl, eq_applyDds_of_exec rfl h⟩
  | diale | dials | pulse | dbrel | sfinh lvl =>
    exact .inr (.inl ⟨rfl, Host.Outcome.next.inj (h.symm.trans (exec_decoderOp rfl s))⟩)
  | reset => exact .inr (.inr ⟨rfl, Host.Outcome.next.inj (h.symm.trans (Reset.exec_reset s))⟩)

/-! ## What every operation keeps -/

/-- No operation writes the configuration (10_state.md R20). -/
theorem exec_config {i : Instr} {s t : State} (h : exec i s = .next t) : t.config = s.config := by
  obtain ⟨-, rfl⟩ | ⟨-, rfl⟩ | ⟨-, rfl⟩ := exec_eq_next_cases h <;> rfl

/-- No operation touches the pending words. -/
theorem exec_stimuli {i : Instr} {s t : State} (h : exec i s = .next t) : t.stimuli = s.stimuli := by
  obtain ⟨-, rfl⟩ | ⟨-, rfl⟩ | ⟨-, rfl⟩ := exec_eq_next_cases h <;> rfl

/-- An operation adds events after those already emitted. -/
theorem exec_outputs {i : Instr} {s t : State} (h : exec i s = .next t) :
    ∃ es, t.outputs = s.outputs ++ es := by
  obtain ⟨-, rfl⟩ | ⟨-, rfl⟩ | ⟨-, rfl⟩ := exec_eq_next_cases h <;> exact ⟨_, rfl⟩

/-- The events of an operation are what it appends to the record. -/
theorem emittedSince_of_append {s t : State} {es : List OutEvent} (h : t.outputs = s.outputs ++ es) :
    emittedSince s t = es := by
  rw [emittedSince, h, List.drop_left]

@[simp] theorem emittedSince_applyDds (s : State) (r : Dds × List OutEvent) :
    emittedSince s (s.applyDds r) = r.2 := emittedSince_of_append rfl

@[simp] theorem emittedSince_applyDec (s : State) (r : Decoder × List OutEvent) :
    emittedSince s (s.applyDec r) = r.2 := emittedSince_of_append rfl

@[simp] theorem emittedSince_resetBlock (s : State) :
    emittedSince s s.resetBlock = if s.dds.outEn then [.outEn false] else [] :=
  emittedSince_of_append rfl

/-! ## The halves -/

/-- Settles O41, by the two forms of a next state. -/
theorem halvesWriteDisjointRegisters : Obligations.HalvesWriteDisjointRegisters := by
  refine ⟨fun i s t dds h => ?_, fun i s t decoder h => ?_⟩
  · exact ⟨PulseDecoder.dec_of_isDdsOp dds h, exec_stimuli h⟩
  · cases (exec_decoderOp decoder s).symm.trans h
    exact ⟨rfl, rfl⟩

/-- What the DDS engine does depends on the configuration and the DDS registers alone. -/
theorem exec_ddsOp_of_agree {i : Instr} {s t s' : State} (dds : isDdsOp i = true)
    (same : t.dds = s.dds) (config : t.config = s.config) (h : exec i s = .next s') :
    exec i t = .next (t.applyDds (ddsEffect i s.config s.dds)) := by
  have accepted := (exec_next_iff i s).mp ⟨s', h⟩
  rw [← same, ← config] at accepted
  obtain ⟨t', h'⟩ := (exec_next_iff i t).mpr accepted
  rw [h', eq_applyDds_of_exec dds h', same, config]

/-- Settles O42: the same effect on the registers that agree. -/
theorem halvesReadDisjointRegisters : Obligations.HalvesReadDisjointRegisters := by
  refine ⟨fun i s t s' dds same config h => ?_, fun i s t s' decoder same config h => ?_⟩
  · obtain rfl := eq_applyDds_of_exec dds h
    exact ⟨_, exec_ddsOp_of_agree dds same config h, rfl, by simp⟩
  · cases (exec_decoderOp decoder s).symm.trans h
    refine ⟨_, exec_decoderOp decoder t, ?_, ?_⟩
    · simp [same, config]
    · simp [same, config]

/-- The DDS engine emits events of its own only (30_encoding.md R102). -/
theorem ddsEffect_events (i : Instr) (c : Config) (d : Dds) :
    ∀ e ∈ (ddsEffect i c d).2, isDdsEvent e = true := by
  cases i with
  | tone sym dur =>
    obtain ⟨k, n, first⟩ | silent := Sequencer.firstSounding_or_noneSounding c (notes c sym dur) 0
    · simp [ddsEffect, Sequencer.startTone_of_firstSounding first, isDdsEvent]
    · simp [ddsEffect, Sequencer.startTone_of_noneSounding silent, isDdsEvent]
  | tick =>
    simp only [ddsEffect]
    split_ifs
    · obtain ⟨-, eq⟩ | ⟨-, _, _, -, eq⟩ | ⟨-, -, eq⟩ := Sequencer.effectiveTick_cases c d <;>
        simp [eq, isDdsEvent]
    · simp
  | init | diale | dials | pulse | dbrel | sfinh lvl | reset => simp [ddsEffect]

/-- The decoder emits events of its own only (30_encoding.md R102). -/
theorem decoderEffect_events (i : Instr) (c : Config) (d : Decoder) :
    ∀ e ∈ (decoderEffect i c d).2, isDdsEvent e = false := by
  cases i with
  | dials | pulse =>
    simp only [decoderEffect]
    split_ifs <;> simp [isDdsEvent]
  | diale =>
    simp only [decoderEffect, digitEvent]
    split_ifs <;> simp [isDdsEvent]
  | init | tone sym dur | tick | dbrel | sfinh lvl | reset => simp [decoderEffect]

/-- The DDS engine's events pass the filter of its half, and none passes the other's. -/
theorem filter_ddsEffect (i : Instr) (c : Config) (d : Dds) :
    (ddsEffect i c d).2.filter isDdsEvent = (ddsEffect i c d).2 ∧
      (ddsEffect i c d).2.filter (fun e => !isDdsEvent e) = [] := by
  have events := ddsEffect_events i c d
  exact ⟨List.filter_eq_self.mpr events, by simpa using events⟩

/-- The decoder's events pass the filter of its half, and none passes the other's. -/
theorem filter_decoderEffect (i : Instr) (c : Config) (d : Decoder) :
    (decoderEffect i c d).2.filter isDdsEvent = [] ∧
      (decoderEffect i c d).2.filter (fun e => !isDdsEvent e) = (decoderEffect i c d).2 := by
  have events := decoderEffect_events i c d
  exact ⟨by simpa using events, List.filter_eq_self.mpr (by simpa using events)⟩

/-- Settles O43: the two effects write different registers, and each half's filter sees its own half's
events only. -/
theorem halvesCommute : Obligations.HalvesCommute := by
  intro i j s t u dds decoder hi hj
  obtain rfl := eq_applyDds_of_exec dds hi
  cases (exec_decoderOp decoder _).symm.trans hj
  have after := exec_ddsOp_of_agree (t := s.applyDec (decoderEffect j s.config s.dec)) dds
    (applyDec_dds ..) (applyDec_config ..) hi
  refine ⟨_, _, exec_decoderOp decoder s, after, rfl, ?_, ?_⟩
  · simp [List.filter_append, filter_ddsEffect, filter_decoderEffect]
  · simp [List.filter_append, filter_ddsEffect, filter_decoderEffect]

/-! ## Phases, busy and dialing -/

/-- An effective TICK adds the steps to the phases, modulo 2^PHASE_W (40_dds.md R136, R147). -/
theorem effectiveTick_phases (c : Config) (d : Dds) :
    (effectiveTick c d).1.phaseA = nextPhase c d.phaseA d.stepA ∧
      (effectiveTick c d).1.phaseB = nextPhase c d.phaseB d.stepB :=
  ⟨effectiveTick_phaseA c d, effectiveTick_phaseB c d⟩

/-- The start of a tone leaves the phases (40_dds.md R130, R147). -/
theorem startTone_phases (c : Config) (d : Dds) (sym : SymCode) (dur : Millis) :
    (startTone c d sym dur).1.phaseA = d.phaseA ∧ (startTone c d sym dur).1.phaseB = d.phaseB := by
  obtain ⟨n, -, eq⟩ | ⟨-, eq⟩ := startTone_cases c d sym dur <;> rw [eq] <;> exact ⟨rfl, rfl⟩

/-- Settles O34. -/
theorem phasesMoveByStepsOnly : Obligations.PhasesMoveByStepsOnly := by
  intro i s t h
  obtain ⟨dds, rfl⟩ | ⟨-, rfl⟩ | ⟨rfl, rfl⟩ := exec_eq_next_cases h
  · cases i with
    | init =>
      obtain ⟨hb, -⟩ := execInit_eq_next h
      exact .inr (.inr ⟨.inr ⟨rfl, hb⟩, rfl, rfl⟩)
    | tone sym dur => exact .inl (startTone_phases ..)
    | tick =>
      obtain ⟨-, gated⟩ | ⟨ho, effective⟩ := execTick_eq_next h
      · rw [gated]
        exact .inl ⟨rfl, rfl⟩
      · rw [effective]
        exact .inr (.inl ⟨rfl, ho, effectiveTick_phases ..⟩)
    | diale | dials | pulse | dbrel | sfinh lvl | reset => simp [isDdsOp] at dds
  · exact .inl ⟨rfl, rfl⟩
  · exact .inr (.inr ⟨.inl rfl, rfl, rfl⟩)

/-- What a TICK does to `busy`: it stays, or the tone completes and says so (40_dds.md R144, R154). -/
theorem execTick_busy {s t : State} (h : execTick s = .next t) :
    t.dds.busy = s.dds.busy ∨
      (t.dds.busy = false ∧ ∃ v, t.outputs = s.outputs ++ [.sampleOut v, .outEn false, .done]) := by
  obtain ⟨-, rfl⟩ | ⟨-, rfl⟩ := execTick_eq_next h
  · exact .inl rfl
  · obtain ⟨-, eq⟩ | ⟨-, _, _, -, eq⟩ | ⟨-, -, eq⟩ :=
      Sequencer.effectiveTick_cases s.config s.dds <;> rw [eq]
    · exact .inl rfl
    · exact .inl rfl
    · exact .inr ⟨rfl, _, rfl⟩

/-- What an operation does to `busy` (40_dds.md R154). -/
theorem exec_busy {i : Instr} {s t : State} (h : exec i s = .next t) :
    t.dds.busy = s.dds.busy ∨ (s.dds.busy = false ∧ ∃ sym dur, i = .tone sym dur) ∨
      (t.dds.busy = false ∧ (i = .reset ∨
        (i = .tick ∧ ∃ v, t.outputs = s.outputs ++ [.sampleOut v, .outEn false, .done]))) := by
  cases i with
  | init =>
    obtain ⟨-, rfl⟩ := execInit_eq_next h
    exact .inl rfl
  | tone sym dur =>
    obtain ⟨hb, -, -⟩ := execTone_eq_next h
    exact .inr (.inl ⟨hb, sym, dur, rfl⟩)
  | tick =>
    obtain same | ⟨falls, completes⟩ := execTick_busy h
    · exact .inl same
    · exact .inr (.inr ⟨falls, .inr ⟨rfl, completes⟩⟩)
  | diale | dials | pulse | dbrel | sfinh lvl =>
    cases (exec_decoderOp rfl s).symm.trans h
    exact .inl rfl
  | reset =>
    cases h
    exact .inr (.inr ⟨rfl, .inl rfl⟩)

/-- Settles O35, by what an operation does to `busy`. -/
theorem busyFollowsTheSequencer : Obligations.BusyFollowsTheSequencer := by
  refine ⟨fun i s t h idle rises => ?_, fun i s t h hb falls => ?_⟩
  · obtain same | ⟨-, tone⟩ | ⟨falls, -⟩ := exec_busy h
    · simp [same, idle] at rises
    · exact tone
    · simp [falls] at rises
  · obtain same | ⟨idle, -⟩ | ⟨-, cause⟩ := exec_busy h
    · simp [same, hb] at falls
    · simp [idle] at hb
    · exact cause

/-- PULSE leaves the dial-active line (41_decoder.md R177). -/
theorem execPulse_dialing {s t : State} (h : execPulse s = .next t) :
    t.dec.dialing = s.dec.dialing := by
  cases hl : s.dec.dbLock with
  | false =>
    cases (PulseDecoder.execPulse_unlocked hl).symm.trans h
    rfl
  | true =>
    cases (PulseDecoder.execPulse_locked hl).symm.trans h
    rfl

/-- What an operation does to `dialing` (41_decoder.md R171). -/
theorem exec_dialing {i : Instr} {s t : State} (h : exec i s = .next t) :
    t.dec.dialing = s.dec.dialing ∨ (t.dec.dialing = true ∧ i = .dials) ∨
      (t.dec.dialing = false ∧ (i = .diale ∨ i = .reset)) := by
  cases i with
  | init | tone sym dur | tick =>
    rw [PulseDecoder.dec_of_isDdsOp rfl h]
    exact .inl rfl
  | dials =>
    obtain ⟨-, rfl⟩ | ⟨-, rfl⟩ := PulseDecoder.execDials_eq_next h
    · exact .inl rfl
    · exact .inr (.inl ⟨rfl, rfl⟩)
  | diale =>
    obtain ⟨-, rfl⟩ | ⟨-, rfl⟩ := PulseDecoder.execDiale_eq_next h
    · exact .inl rfl
    · exact .inr (.inr ⟨rfl, .inl rfl⟩)
  | pulse => exact .inl (execPulse_dialing h)
  | dbrel | sfinh lvl =>
    cases h
    exact .inl rfl
  | reset =>
    cases h
    exact .inr (.inr ⟨rfl, .inr rfl⟩)

/-- Settles O54, by what an operation does to `dialing`. -/
theorem dialingFollowsTheLine : Obligations.DialingFollowsTheLine := by
  refine fun i s t h => ⟨fun resting rises => ?_, fun dialing falls => ?_⟩
  · obtain same | ⟨-, cause⟩ | ⟨falls, -⟩ := exec_dialing h
    · simp [same, resting] at rises
    · exact cause
    · simp [falls] at rises
  · obtain same | ⟨rises, -⟩ | ⟨-, cause⟩ := exec_dialing h
    · simp [same, dialing] at falls
    · simp [rises] at falls
    · exact cause

end Sys2Proof.Operations

/-!
The step (00_scope.md R10; 20_memory.md R74; 30_encoding.md R93, R98). A step takes the first pending word
whose agent has a step (`TakesWord`), if there is one, and either applies the operation that it decodes to or
refuses it as reserved (`step_cases`).
-/

namespace Sys2Proof.Stepping

open Sys2Proof.Machine

/-! ## The word a step takes -/

/-- The pending words are `before`, then `w`, then `after`, and `w` is the first whose agent has a step. -/
structure TakesWord (s : State) (before : List Word) (w : Word) (after : List Word) : Prop where
  pending : s.stimuli = before ++ w :: after
  passed : ∀ v ∈ before, agentEnabled s.dds v = false
  enabled : agentEnabled s.dds w = true

/-- The host has no step for a word exactly when it is a command word and `busy = 1`
(30_encoding.md R93). -/
theorem agentEnabled_eq_false_iff {d : Dds} {w : Word} :
    agentEnabled d w = false ↔ isCommandWord w = true ∧ d.busy = true := by
  rw [← Bool.not_eq_true, agentEnabled_iff]
  simp

theorem TakesWord.mem {s : State} {before after : List Word} {w : Word}
    (takes : TakesWord s before w after) : w ∈ s.stimuli := by
  simp [takes.pending]

theorem TakesWord.nextStimulus_eq {s : State} {before after : List Word} {w : Word}
    (takes : TakesWord s before w after) :
    s.nextStimulus = some (w, s.withStimuli (before ++ after)) := by
  rw [State.nextStimulus, takes.pending, takeEnabled_append takes.passed takes.enabled]
  rfl

/-- The first pending word is taken, but for a command word while `busy = 1`. -/
theorem takesWord_head {s : State} {w : Word} {rest : List Word} (pending : s.stimuli = w :: rest)
    (free : isCommandWord w = false ∨ s.dds.busy = false) : TakesWord s [] w rest :=
  ⟨pending, by simp, agentEnabled_iff.mpr free⟩

/-- While `busy = 1` the first word behind commands is taken. -/
theorem takesWord_behind_commands {s : State} {before after : List Word} {w : Word}
    (hb : s.dds.busy = true) (commands : ∀ v ∈ before, isCommandWord v = true)
    (pending : s.stimuli = before ++ w :: after) (line : isCommandWord w = false) :
    TakesWord s before w after :=
  ⟨pending, fun v hv => agentEnabled_eq_false_iff.mpr ⟨commands v hv, hb⟩,
    agentEnabled_iff.mpr (.inl line)⟩

/-- The class of a word is that of the operation which it decodes to (30_encoding.md R91). -/
theorem isCommandWord_of_decode {w : Word} {i : Instr} (h : decode w = .ok i) :
    isCommandWord w = isCommand i := by
  rw [← RoundTrip.encode_of_decode h, isCommandWord_encode]

/-! ## What a step does with it -/

theorem step_of_nextStimulus_none {s : State} (h : s.nextStimulus = none) : step s = .next s := by
  rw [step, h]

theorem step_of_decode {s rest : State} {w : Word} {i : Instr} (h : s.nextStimulus = some (w, rest))
    (hd : decode w = .ok i) : step s = exec i rest := by
  simp only [step, h, hd]

/-- A reserved word is refused by its own value (30_encoding.md R98). -/
theorem step_of_reserved {s rest : State} {w : Word} (h : s.nextStimulus = some (w, rest))
    (reserved : wellFormedWord w = false) : step s = .refused (.reservedWord w) := by
  cases hd : decode w with
  | ok i => simp [(RoundTrip.decodes_iff_wellFormed w).mp ⟨i, hd⟩] at reserved
  | error e => simp only [step, h, hd]

/-- With no enabled event a step leaves the state as it is (log 1). -/
theorem step_idle {s : State} (h : ∀ v ∈ s.stimuli, agentEnabled s.dds v = false) :
    step s = .next s :=
  step_of_nextStimulus_none (by rw [State.nextStimulus, takeEnabled_none h, Option.map_none])

/-- A step is idle, or it takes a word and applies its operation or refuses it as reserved. -/
theorem step_cases (s : State) :
    step s = .next s ∨ ∃ before w after, TakesWord s before w after ∧
      ((∃ i, decode w = .ok i ∧ step s = exec i (s.withStimuli (before ++ after))) ∨
        (wellFormedWord w = false ∧ step s = .refused (.reservedWord w))) := by
  cases h : s.nextStimulus with
  | none => exact .inl (step_of_nextStimulus_none h)
  | some taken =>
    obtain ⟨w, rest⟩ := taken
    obtain ⟨before, after, pending, rfl, passed, enabled⟩ := nextStimulus_eq_some h
    refine .inr ⟨before, w, after, ⟨pending, passed, enabled⟩, ?_⟩
    cases wf : wellFormedWord w with
    | true =>
      obtain ⟨i, hd⟩ := (RoundTrip.decodes_iff_wellFormed w).mpr wf
      exact .inl ⟨i, hd, step_of_decode h hd⟩
    | false => exact .inr ⟨rfl, step_of_reserved h wf⟩

/-- A step with a next state is idle, or it applies the operation of the word it takes. -/
theorem step_next_cases {s t : State} (h : step s = .next t) :
    t = s ∨ ∃ before w after i, TakesWord s before w after ∧ decode w = .ok i ∧
      exec i (s.withStimuli (before ++ after)) = .next t := by
  obtain idle | ⟨before, w, after, takes, ⟨i, hd, run⟩ | ⟨-, refused⟩⟩ := step_cases s
  · exact .inl (Host.Outcome.next.inj (h.symm.trans idle))
  · exact .inr ⟨before, w, after, i, takes, hd, run.symm.trans h⟩
  · cases h.symm.trans refused

/-- The operation of the word that a step takes is enabled: the host has no step while `busy = 1`
(30_encoding.md R93). -/
theorem TakesWord.operation_enabled {s : State} {before after : List Word} {w : Word} {i : Instr}
    (takes : TakesWord s before w after) (hd : decode w = .ok i) :
    isCommand i = false ∨ s.dds.busy = false := by
  rw [← isCommandWord_of_decode hd]
  exact agentEnabled_iff.mp takes.enabled

/-- A step refuses reserved words only (30_encoding.md R98, 60_exceptions.md R202). -/
theorem step_refused {s : State} {r : Refusal} (h : step s = .refused r) :
    ∃ w, r = .reservedWord w ∧ wellFormedWord w = false ∧ w ∈ s.stimuli := by
  obtain idle | ⟨before, w, after, takes, ⟨i, hd, run⟩ | ⟨reserved, refused⟩⟩ := step_cases s
  · cases h.symm.trans idle
  · have enabled := takes.operation_enabled hd
    exact absurd (run.symm.trans h) (Operations.exec_ne_refused (by simpa using enabled) r)
  · exact ⟨w, Host.Outcome.refused.inj (h.symm.trans refused), reserved, takes.mem⟩

/-! ## The host's contract -/

/-- A step of a machine whose environment keeps the host's contract has a next state. -/
theorem step_next_of_withinContract {s : State} (contract : PendingWithinContract s) :
    ∃ t, step s = .next t := by
  obtain idle | ⟨before, w, after, takes, ⟨i, hd, run⟩ | ⟨reserved, -⟩⟩ := step_cases s
  · exact ⟨s, idle⟩
  · obtain ⟨j, hd', within⟩ := contract w takes.mem
    cases hd.symm.trans hd'
    rw [run]
    exact (Operations.exec_next_iff i _).mpr ⟨within, takes.operation_enabled hd⟩
  · obtain ⟨i, hd, -⟩ := contract w takes.mem
    simp [(RoundTrip.decodes_iff_wellFormed w).mp ⟨i, hd⟩] at reserved

/-- A step takes a pending word or none, and adds none. -/
theorem step_stimuli_subset {s t : State} (h : step s = .next t) : ∀ v ∈ t.stimuli, v ∈ s.stimuli := by
  obtain rfl | ⟨before, w, after, i, takes, -, run⟩ := step_next_cases h
  · exact fun _ hv => hv
  · intro v hv
    rw [Operations.exec_stimuli run, withStimuli_stimuli, List.mem_append] at hv
    rw [takes.pending, List.mem_append, List.mem_cons]
    exact hv.imp_right .inr

/-- A step leaves the configuration (20_memory.md R68). -/
theorem step_config {s t : State} (h : step s = .next t) : t.config = s.config := by
  obtain rfl | ⟨_, _, _, _, -, -, run⟩ := step_next_cases h
  · rfl
  · rw [Operations.exec_config run, withStimuli_config]

/-- Settles O44: the step has a next state, whose pending words are among those pending before, under the
same configuration. -/
theorem contractKeptRunsOn : Obligations.ContractKeptRunsOn := by
  intro s contract
  obtain ⟨t, next⟩ := step_next_of_withinContract contract
  refine ⟨t, next, fun w hw => ?_⟩
  rw [step_config next]
  exact contract w (step_stimuli_subset next w hw)

/-- Settles O39. -/
theorem tablesNeverChange : Obligations.TablesNeverChange := fun _ _ => step_config

/-- Settles O40. -/
theorem outputsOnlyGrow : Obligations.OutputsOnlyGrow := by
  intro s t h
  obtain rfl | ⟨_, _, _, _, -, -, run⟩ := step_next_cases h
  · exact ⟨[], List.append_nil _⟩
  · obtain ⟨es, appended⟩ := Operations.exec_outputs run
    exact ⟨es, appended.symm⟩

/-! ## Commands and line events -/

/-- Settles O7. -/
theorem stepRunsDecodedStimulus : Obligations.StepRunsDecodedStimulus := by
  refine ⟨fun s w rest i pending hd enabled => ?_,
    fun s before after w i hb commands pending hd line => ?_⟩
  · rw [← isCommandWord_of_decode hd] at enabled
    exact step_of_decode (takesWord_head pending enabled).nextStimulus_eq hd
  · rw [← isCommandWord_of_decode hd] at line
    exact step_of_decode (takesWord_behind_commands hb commands pending line).nextStimulus_eq hd

/-- Settles O8. -/
theorem stepIdlesWithoutStimulus : Obligations.StepIdlesWithoutStimulus :=
  ⟨fun _ nothing => step_idle (by simp [nothing]),
    fun _ hb commands => step_idle fun v hv => agentEnabled_eq_false_iff.mpr ⟨commands v hv, hb⟩⟩

/-- The word of an operation as the 32 bits of a table row. -/
theorem stimulusOf_encode (i : Instr) : stimulusOf 32 (encode i).toNat = encode i := by
  rw [stimulusOf, Nat.mod_eq_of_lt (encode i).isLt, BitVec.ofNat_toNat, BitVec.setWidth_eq]

/-- Settles O9: the word put in front is taken at once, and what is left is the original state. -/
theorem fetchWordRunsNext : Obligations.FetchWordRunsNext := by
  intro s i enabled
  rw [State.withFetchWord, stimulusOf_encode]
  rw [← isCommandWord_encode] at enabled
  exact step_of_decode (nextStimulus_putStimulus (agentEnabled_iff.mpr enabled))
    (RoundTrip.decode_encode i)

/-- Settles O10. -/
theorem reservedWordsRefused : Obligations.ReservedWordsRefused :=
  ⟨fun _ _ _ pending free => step_of_reserved (takesWord_head pending free).nextStimulus_eq,
    fun _ _ _ _ hb commands pending line =>
      step_of_reserved (takesWord_behind_commands hb commands pending line).nextStimulus_eq,
    fun _ _ => step_refused⟩

/-- The word that a step takes while `busy = 1` is no command word (30_encoding.md R93). -/
theorem TakesWord.line_of_busy {s : State} {before after : List Word} {w : Word}
    (takes : TakesWord s before w after) (hb : s.dds.busy = true) : isCommandWord w = false := by
  obtain line | idle := agentEnabled_iff.mp takes.enabled
  · exact line
  · simp [hb] at idle

/-- While `busy = 1` a step keeps the pending commands in their order. -/
theorem step_keeps_commands {s t : State} (hb : s.dds.busy = true) (h : step s = .next t) :
    t.stimuli.filter isCommandWord = s.stimuli.filter isCommandWord := by
  obtain rfl | ⟨before, w, after, i, takes, -, run⟩ := step_next_cases h
  · rfl
  · rw [Operations.exec_stimuli run, withStimuli_stimuli, takes.pending]
    simp [takes.line_of_busy hb]

/-- While `busy = 1` the command on the port stays on it (30_encoding.md R93). -/
theorem step_keeps_presentedCommand {s t : State} {c : Word} (hb : s.dds.busy = true)
    (h : step s = .next t) (presented : s.presentedCommand = some c) :
    t.presentedCommand = some c := by
  obtain rfl | ⟨before, w, after, i, takes, -, run⟩ := step_next_cases h
  · exact presented
  · rw [State.presentedCommand, takes.pending] at presented
    rw [State.presentedCommand, Operations.exec_stimuli run, withStimuli_stimuli]
    cases before with
    | nil =>
      have line := takes.line_of_busy hb
      obtain ⟨rfl, command⟩ : w = c ∧ isCommandWord c = true := by simpa using presented
      simp [command] at line
    | cons v rest => exact presented

/-- Settles O14. -/
theorem commandsWaitWhileBusy : Obligations.CommandsWaitWhileBusy := by
  refine ⟨fun i s => Operations.exec_command_busy, fun s t hb h => ?_, fun i s line => ?_⟩
  · exact ⟨step_keeps_commands hb h, fun c => step_keeps_presentedCommand hb h⟩
  · obtain ⟨t, next⟩ := Exceptions.exec_next_of_lineEvent line s
    exact ⟨t, next, Operations.exec_stimuli next⟩

/-- An operation faults exactly when it is an accepted TONE of an unplayable symbol
(60_exceptions.md R201). -/
theorem exec_fault_iff (i : Instr) (s : State) (f : Fault) :
    exec i s = .fault f ↔ ∃ sym dur, i = .tone sym dur ∧ s.dds.busy = false ∧
      playable s.config sym = false ∧ f = .contractViolation sym := by
  refine ⟨Exceptions.exec_eq_fault, ?_⟩
  rintro ⟨sym, dur, rfl, hb, hp, rfl⟩
  exact Exceptions.execTone_unplayable hb hp

/-- Settles O59. -/
theorem outcomesAreKeptApart : Obligations.OutcomesAreKeptApart := by
  refine ⟨Operations.exec_next_iff, exec_fault_iff, Operations.exec_refused_iff, fun s w h => ?_⟩
  obtain ⟨_, isReserved, -, -⟩ := step_refused h
  cases isReserved

end Sys2Proof.Stepping

/-!
The digit classifier (41_decoder.md R172, R173). CLASSIFY is MAP on the counts 1..10, where MAP takes the
values 0..9, each once; every other count is OFF.
-/

namespace Sys2Proof.Classifier

open Sys2Proof.Machine Sys2Proof.Claims

/-- MAP answers a digit (41_decoder.md R173). -/
theorem mapCount_le (p : MapPolicy) {count : Nat} (lower : 1 ≤ count) (upper : count ≤ 10) :
    mapCount p count ≤ 9 := by
  cases p with
  | standard | reversed => exact Nat.le_of_lt_succ (Nat.mod_lt _ (by decide))
  | offset =>
    simp only [mapCount]
    omega

/-- A valid count is classified by MAP, whose value fits a symbol code (41_decoder.md R172). -/
theorem classify_toNat (p : MapPolicy) {count : PulseCount} (lower : 1 ≤ count.toNat)
    (upper : count.toNat ≤ 10) : (classify p count).toNat = mapCount p count.toNat := by
  have digit := mapCount_le p lower upper
  rw [classify, if_pos ⟨lower, upper⟩, BitVec.toNat_ofNat, Nat.mod_eq_of_lt (by omega)]

theorem classify_le (p : MapPolicy) {count : PulseCount} (lower : 1 ≤ count.toNat)
    (upper : count.toNat ≤ 10) : (classify p count).toNat ≤ 9 := by
  rw [classify_toNat p lower upper]
  exact mapCount_le p lower upper

/-- CLASSIFY answers OFF exactly for an invalid count. -/
theorem classify_eq_off_iff (p : MapPolicy) (count : PulseCount) :
    classify p count = 31 ↔ ¬(1 ≤ count.toNat ∧ count.toNat ≤ 10) := by
  constructor
  · rintro off ⟨lower, upper⟩
    have digit := classify_le p lower upper
    rw [off] at digit
    exact absurd digit (by decide)
  · exact fun invalid => if_neg invalid

/-- CLASSIFY answers a digit 0..9 or OFF (41_decoder.md R183). -/
theorem classify_inRange (p : MapPolicy) (count : PulseCount) :
    (classify p count).toNat ≤ 9 ∨ classify p count = 31 := by
  by_cases valid : 1 ≤ count.toNat ∧ count.toNat ≤ 10
  · obtain ⟨lower, upper⟩ := valid
    exact .inl (classify_le p lower upper)
  · exact .inr ((classify_eq_off_iff p count).mpr valid)

/-- The printed table holds MAP at the valid counts (41_decoder.md R173). -/
theorem digitOfCount_valid (p : MapPolicy) {count : Nat} (lower : 1 ≤ count) (upper : count ≤ 10) :
    digitOfCount p count = BitVec.ofNat 5 (mapCount p count) := by
  interval_cases count <;> cases p <;> rfl

/-- The printed table holds OFF elsewhere. -/
theorem digitOfCount_invalid (p : MapPolicy) {count : Nat} (outside : count = 0 ∨ 11 ≤ count) :
    digitOfCount p count = 31 := by
  obtain rfl | beyond := outside
  · cases p <;> rfl
  · cases p <;> exact List.getD_eq_default _ _ beyond

theorem classify_eq_digitOfCount (p : MapPolicy) (count : PulseCount) :
    classify p count = digitOfCount p count.toNat := by
  by_cases valid : 1 ≤ count.toNat ∧ count.toNat ≤ 10
  · obtain ⟨lower, upper⟩ := valid
    rw [digitOfCount_valid p lower upper]
    exact if_pos ⟨lower, upper⟩
  · rw [(classify_eq_off_iff p count).mpr valid, digitOfCount_invalid p (by omega)]

/-- Settles O52. -/
theorem classifierTable : Obligations.ClassifierTable := by
  refine fun p count => ⟨classify_eq_digitOfCount p count, fun ⟨lower, upper⟩ => ?_,
    PulseDecoder.classify_outOfRange p⟩
  rw [classify_toNat p lower upper]
  cases p <;> rfl

/-- A count that MAP takes to a digit (41_decoder.md R173). -/
def countOf (p : MapPolicy) (d : Nat) : Nat :=
  match p with
  | .standard => if d = 0 then 10 else d
  | .reversed => 10 - d
  | .offset => d + 1

theorem mapCount_countOf (p : MapPolicy) {d : Nat} (digit : d ≤ 9) :
    1 ≤ countOf p d ∧ countOf p d ≤ 10 ∧ mapCount p (countOf p d) = d := by
  cases p with
  | standard =>
    simp only [countOf, mapCount]
    split_ifs <;> omega
  | reversed | offset =>
    simp only [countOf, mapCount]
    omega

theorem mapCount_injective (p : MapPolicy) {a b : Nat} (a_lower : 1 ≤ a) (a_upper : a ≤ 10)
    (b_lower : 1 ≤ b) (b_upper : b ≤ 10) (same : mapCount p a = mapCount p b) : a = b := by
  cases p <;> simp only [mapCount] at same <;> omega

/-- Settles O53. -/
theorem mappingPoliciesAreBijections : Obligations.MappingPoliciesAreBijections := by
  refine fun p => ⟨fun a b => mapCount_injective p, fun d => ⟨fun digit => ?_, ?_⟩⟩
  · exact ⟨countOf p d, mapCount_countOf p digit⟩
  · rintro ⟨a, lower, upper, rfl⟩
    exact mapCount_le p lower upper

end Sys2Proof.Classifier

/-!
The invariant of every run (10_state.md R21, R22; 40_dds.md R148 to R150, R154; 41_decoder.md R183;
30_encoding.md R102). Each half keeps its own part: the engine because the note that it loads is a note of
the tone in progress, the decoder because CLASSIFY answers a digit or OFF.
-/

namespace Sys2Proof.Invariant

open Sys2Proof.Machine Sys2Proof.Claims Sys2Proof.Sequencer Sys2Proof.Operations
  Sys2Proof.Classifier

/-! ## The DDS engine -/

theorem nextPhase_lt (c : Config) (phase : Nat) (step : StepWidth) :
    nextPhase c phase step < 2 ^ phaseWidth c := phaseWrap_lt c _

/-- A note's length fits `target` (40_dds.md R132). -/
theorem target_toNat (c : Config) (ms : Millis) :
    (BitVec.ofNat 32 (ticksOf c ms)).toNat = ticksOf c ms := by
  rw [BitVec.toNat_ofNat, Nat.mod_eq_of_lt (ticksOf_lt c ms)]

/-- A note's index fits `note_idx` (10_state.md R33). -/
theorem noteIdx_toNat {c : Config} {sym : SymCode} {dur : Millis} {k : Nat} {n : Note}
    (listed : (notes c sym dur)[k]? = some n) : (BitVec.ofNat 2 k).toNat = k := by
  obtain ⟨inList, -⟩ := List.getElem?_eq_some_iff.mp listed
  have short := notes_length_le c sym dur
  rw [BitVec.toNat_ofNat, Nat.mod_eq_of_lt (by omega)]

/-- A loaded note of the tone in progress is playing, and its last tick is still to come
(40_dds.md R150, R154). -/
theorem playingNote_loadNote {c : Config} {d : Dds} {j k : Nat} {n : Note}
    (hp : playable c d.curSym = true)
    (first : FirstSounding c (notes c d.curSym d.durArg) j k n) :
    PlayingNote c (loadNote c d k n) n := by
  obtain ⟨-, listed, sounds, -⟩ := first
  refine ⟨hp, ?_, rfl, rfl, target_toNat c n.ms, ?_⟩
  · show (notes c d.curSym d.durArg)[(BitVec.ofNat 2 k).toNat]? = some n
    rw [noteIdx_toNat listed, listed]
  · show 0 < (BitVec.ofNat 32 (ticksOf c n.ms)).toNat
    rwa [target_toNat]

theorem afterReset_consistent (c : Config) (sample : Sample) :
    DdsConsistent c (Dds.afterReset sample) where
  phaseA_lt := Nat.two_pow_pos _
  phaseB_lt := Nat.two_pow_pos _
  busy_eq_outEn := rfl
  idle_steps _ := ⟨rfl, rfl⟩
  count_le := Nat.le_refl _
  playing busy := Bool.noConfusion busy

theorem initDds_consistent {c : Config} {d : Dds} (hb : d.busy = false) :
    DdsConsistent c (initDds d) where
  phaseA_lt := Nat.two_pow_pos _
  phaseB_lt := Nat.two_pow_pos _
  busy_eq_outEn := hb
  idle_steps _ := ⟨rfl, rfl⟩
  count_le := Nat.le_refl _
  playing busy := Bool.noConfusion (hb.symm.trans busy)

/-- An accepted TONE starts a note of its own, or leaves the engine idle (40_dds.md R130). -/
theorem startTone_consistent {c : Config} {d : Dds} {sym : SymCode} (dur : Millis)
    (inv : DdsConsistent c d) (hb : d.busy = false) (hp : playable c sym = true) :
    DdsConsistent c (startTone c d sym dur).1 := by
  obtain ⟨k, n, first⟩ | silent := firstSounding_or_noneSounding c (notes c sym dur) 0
  · rw [startTone_of_firstSounding first]
    have playing : PlayingNote c (loadNote c { d with curSym := sym, durArg := dur } k n) n :=
      playingNote_loadNote hp first
    exact
      { phaseA_lt := inv.phaseA_lt
        phaseB_lt := inv.phaseB_lt
        busy_eq_outEn := rfl
        idle_steps := fun idle => Bool.noConfusion idle
        count_le := playing.count_lt.le
        playing := fun _ => ⟨n, ⟨hp, playing.note_listed, rfl, rfl, playing.target_eq,
          playing.count_lt⟩⟩ }
  · rw [startTone_of_noneSounding silent]
    exact
      { phaseA_lt := inv.phaseA_lt
        phaseB_lt := inv.phaseB_lt
        busy_eq_outEn := inv.busy_eq_outEn
        idle_steps := fun _ => ⟨rfl, rfl⟩
        count_le := Nat.le_refl _
        playing := fun busy => Bool.noConfusion (hb.symm.trans busy) }

/-- A count below another fits its register one higher. -/
theorem toNat_succ_of_lt {count target : TickCount} (below : count.toNat < target.toNat) :
    (count + 1).toNat = count.toNat + 1 := by
  bv_omega

/-- An effective TICK goes on with its note, loads a later one, or leaves the engine idle
(40_dds.md R140, R143, R144). -/
theorem effectiveTick_consistent {c : Config} {d : Dds} (inv : DdsConsistent c d)
    (ho : d.outEn = true) : DdsConsistent c (effectiveTick c d).1 := by
  obtain ⟨n, playing⟩ := inv.playing (inv.busy_eq_outEn.trans ho)
  have count := toNat_succ_of_lt playing.count_lt
  have phaseA := nextPhase_lt c d.phaseA d.stepA
  have phaseB := nextPhase_lt c d.phaseB d.stepB
  have hb : d.busy = true := inv.busy_eq_outEn.trans ho
  obtain ⟨within, eq⟩ | ⟨-, k, m, first, eq⟩ | ⟨-, -, eq⟩ := effectiveTick_cases c d <;> rw [eq]
  · have counts : (d.tickCount + 1).toNat < d.target.toNat := count.trans_lt within
    exact
      { phaseA_lt := phaseA
        phaseB_lt := phaseB
        busy_eq_outEn := inv.busy_eq_outEn
        idle_steps := inv.idle_steps
        count_le := counts.le
        playing := fun _ => ⟨n, ⟨playing.symbol_playable, playing.note_listed, playing.stepA_eq,
          playing.stepB_eq, playing.target_eq, counts⟩⟩ }
  · have loaded : PlayingNote c (loadNote c (sampled c d) k m) m :=
      playingNote_loadNote playing.symbol_playable first
    exact
      { phaseA_lt := phaseA
        phaseB_lt := phaseB
        busy_eq_outEn := inv.busy_eq_outEn
        idle_steps := fun idle => Bool.noConfusion (idle.symm.trans hb)
        count_le := loaded.count_lt.le
        playing := fun _ => ⟨m, loaded⟩ }
  · have reached : (BitVec.ofNat 32 (d.tickCount.toNat + 1)).toNat ≤ d.target.toNat := by
      rw [ofNat_toNat_succ, count]
      exact playing.count_lt
    exact
      { phaseA_lt := phaseA
        phaseB_lt := phaseB
        busy_eq_outEn := rfl
        idle_steps := fun _ => ⟨rfl, rfl⟩
        count_le := reached
        playing := fun busy => Bool.noConfusion busy }

/-! ## The decoder -/

/-- The event of a classified count carries a digit 0..9 (30_encoding.md R102). -/
theorem digitEvent_inRange {d : SymCode} (range : d.toNat ≤ 9 ∨ d = 31) :
    EventInRange (digitEvent d) := by
  unfold digitEvent
  split_ifs with off
  · trivial
  · exact range.resolve_right off

theorem decoderEffect_digit {d : Decoder} (i : Instr) (c : Config) (inv : DigitInRange d) :
    DigitInRange (decoderEffect i c d).1 := by
  cases i with
  | diale =>
    simp only [decoderEffect]
    split_ifs
    · exact classify_inRange ..
    · exact inv
  | dials | pulse =>
    simp only [decoderEffect]
    split_ifs <;> exact inv
  | init | tone sym dur | tick | dbrel | sfinh lvl | reset => exact inv

theorem decoderEffect_events_inRange (i : Instr) (c : Config) (d : Decoder) :
    ∀ e ∈ (decoderEffect i c d).2, EventInRange e := by
  cases i with
  | diale =>
    have range := digitEvent_inRange (classify_inRange c.mapPolicy d.pulseCount)
    simp only [decoderEffect]
    split_ifs
    · exact List.forall_mem_cons.mpr ⟨trivial, List.forall_mem_singleton.mpr range⟩
    · simp
  | dials | pulse =>
    simp only [decoderEffect]
    split_ifs <;> simp [EventInRange]
  | init | tone sym dur | tick | dbrel | sfinh lvl | reset => simp [decoderEffect]

/-! ## The machine -/

/-- An emitted sample is at most 223 (40_dds.md R139). -/
theorem sampleOfTick_inRange (c : Config) (d : Dds) :
    EventInRange (.sampleOut (BitVec.ofNat 8 (sampleOfTick c d))) := by
  rw [← mix_eq_sampleOfTick]
  exact Engine.mix_le ..

theorem ddsEffect_events_inRange (i : Instr) (c : Config) (d : Dds) :
    ∀ e ∈ (ddsEffect i c d).2, EventInRange e := by
  cases i with
  | tone sym dur =>
    obtain ⟨n, -, eq⟩ | ⟨-, eq⟩ := startTone_cases c d sym dur <;> simp [ddsEffect, eq, EventInRange]
  | tick =>
    have sample := sampleOfTick_inRange c d
    simp only [ddsEffect]
    split_ifs
    · obtain ⟨-, eq⟩ | ⟨-, _, _, -, eq⟩ | ⟨-, -, eq⟩ := effectiveTick_cases c d <;> rw [eq]
      · exact List.forall_mem_singleton.mpr sample
      · exact List.forall_mem_singleton.mpr sample
      · exact List.forall_mem_cons.mpr ⟨sample, by simp [EventInRange]⟩
    · simp
  | init | diale | dials | pulse | dbrel | sfinh lvl | reset => simp [ddsEffect]

/-- The record stays in range when what is added is. -/
theorem append_inRange {before added : List OutEvent} (h : ∀ e ∈ before, EventInRange e)
    (h' : ∀ e ∈ added, EventInRange e) : ∀ e ∈ before ++ added, EventInRange e :=
  fun e he => (List.mem_append.mp he).elim (h e) (h' e)

/-- An accepted operation of the DDS engine keeps its registers consistent. -/
theorem ddsEffect_consistent {i : Instr} {s t : State} (inv : DdsConsistent s.config s.dds)
    (dds : isDdsOp i = true) (h : exec i s = .next t) :
    DdsConsistent s.config (ddsEffect i s.config s.dds).1 := by
  cases i with
  | init =>
    obtain ⟨hb, -⟩ := execInit_eq_next h
    exact initDds_consistent hb
  | tone sym dur =>
    obtain ⟨hb, hp, -⟩ := execTone_eq_next h
    exact startTone_consistent dur inv hb hp
  | tick =>
    simp only [ddsEffect]
    split_ifs with ho
    · exact effectiveTick_consistent inv ho
    · exact inv
  | diale | dials | pulse | dbrel | sfinh lvl | reset => simp [isDdsOp] at dds

/-- Every operation keeps the invariant. -/
theorem exec_consistent {i : Instr} {s t : State} (inv : s.Consistent) (h : exec i s = .next t) :
    t.Consistent := by
  obtain ⟨dds, rfl⟩ | ⟨-, rfl⟩ | ⟨-, rfl⟩ := exec_eq_next_cases h
  · exact ⟨ddsEffect_consistent inv.dds_consistent dds h, inv.digit_inRange,
      append_inRange inv.outputs_inRange (ddsEffect_events_inRange _ _ _)⟩
  · exact ⟨inv.dds_consistent, decoderEffect_digit _ _ inv.digit_inRange,
      append_inRange inv.outputs_inRange (decoderEffect_events_inRange _ _ _)⟩
  · refine ⟨afterReset_consistent .., .inr rfl, append_inRange inv.outputs_inRange ?_⟩
    split_ifs <;> simp [EventInRange]

/-- The pending words are no part of the invariant. -/
theorem withStimuli_consistent {s : State} (inv : s.Consistent) (ws : List Word) :
    (s.withStimuli ws).Consistent :=
  ⟨inv.dds_consistent, inv.digit_inRange, inv.outputs_inRange⟩

/-- Settles O37: a step is idle or an operation, and every operation keeps the invariant. -/
theorem stepKeepsConsistent : Obligations.StepKeepsConsistent := by
  intro s t inv h
  obtain rfl | ⟨_, _, _, _, -, -, run⟩ := Stepping.step_next_cases h
  · exact inv
  · exact exec_consistent (withStimuli_consistent inv _) run

/-- Settles O36. -/
theorem resetIsConsistent : Obligations.ResetIsConsistent :=
  ⟨afterReset_consistent .., .inr rfl, by simp [State.reset]⟩

/-! ## OutEn -/

/-- The decoder emits no OutEn (30_encoding.md R102). -/
theorem outEnLevel_of_decoderEvent {e : OutEvent} (decoder : isDdsEvent e = false) :
    outEnLevel e = none := by
  cases e with
  | sampleOut v | outEn level | done => simp [isDdsEvent] at decoder
  | digitOut d | dropped | sfArm | sfCancel => rfl

theorem decoderEffect_no_outEn (i : Instr) (c : Config) (d : Decoder) :
    (decoderEffect i c d).2.filterMap outEnLevel = [] :=
  List.filterMap_eq_nil_iff.mpr fun e he =>
    outEnLevel_of_decoderEvent (decoderEffect_events i c d e he)

/-- An accepted operation of the DDS engine emits OutEn when it changes `out_en`. -/
theorem ddsEffect_outEn {i : Instr} {s t : State} (inv : DdsConsistent s.config s.dds)
    (dds : isDdsOp i = true) (h : exec i s = .next t) :
    (ddsEffect i s.config s.dds).2.filterMap outEnLevel =
      if (ddsEffect i s.config s.dds).1.outEn = s.dds.outEn then []
      else [(ddsEffect i s.config s.dds).1.outEn] := by
  cases i with
  | init =>
    obtain ⟨hb, -⟩ := execInit_eq_next h
    have ho : s.dds.outEn = false := inv.busy_eq_outEn.symm.trans hb
    simp [ddsEffect, initDds, ho]
  | tone sym dur =>
    obtain ⟨hb, -, -⟩ := execTone_eq_next h
    have ho : s.dds.outEn = false := inv.busy_eq_outEn.symm.trans hb
    obtain ⟨n, -, eq⟩ | ⟨-, eq⟩ := startTone_cases s.config s.dds sym dur <;>
      simp [ddsEffect, eq, ho, outEnLevel]
  | tick =>
    cases ho : s.dds.outEn with
    | false => simp [ddsEffect, ho]
    | true =>
      obtain ⟨-, eq⟩ | ⟨-, _, _, -, eq⟩ | ⟨-, -, eq⟩ := effectiveTick_cases s.config s.dds <;>
        simp [ddsEffect, eq, sampled, loadNote, completeTone, ho, List.filterMap_cons, outEnLevel]
  | diale | dials | pulse | dbrel | sfinh lvl | reset => simp [isDdsOp] at dds

/-- Settles O38. -/
theorem outEnEventsMarkChanges : Obligations.OutEnEventsMarkChanges := by
  intro i s t inv h
  obtain ⟨dds, rfl⟩ | ⟨-, rfl⟩ | ⟨-, rfl⟩ := exec_eq_next_cases h
  · rw [emittedSince_applyDds]
    exact ddsEffect_outEn inv.dds_consistent dds h
  · simp [decoderEffect_no_outEn]
  · cases ho : s.dds.outEn <;> simp [ho, Dds.afterReset, outEnLevel]

end Sys2Proof.Invariant

/-!
Sequences of line events (30_encoding.md R101; 41_decoder.md R176, R181, R182). A PULSE under the lock changes
nothing; a PULSE and the DBREL after it add one to the saturated count (`afterPulses`).
-/

namespace Sys2Proof.Sequences

open Sys2Proof.Machine Sys2Proof.Exceptions

/-- A sequence goes on where the sequence before it ended (20_memory.md R74). -/
theorem execAll_append_of_next {before : List Instr} {s t : State} (h : execAll before s = .next t)
    (later : List Instr) : execAll (before ++ later) s = execAll later t := by
  induction before generalizing s with
  | nil =>
    cases h
    rfl
  | cons i rest ih =>
    rw [List.cons_append]
    cases first : exec i s with
    | next u =>
      rw [execAll_cons_of_next first] at h ⊢
      exact ih h
    | fault f => cases (execAll_cons_of_fault first rest).symm.trans h
    | refused r => cases (execAll_cons_of_refused first rest).symm.trans h

theorem execAll_singleton_of_next {i : Instr} {s t : State} (h : exec i s = .next t) :
    execAll [i] s = .next t :=
  execAll_cons_of_next h []

/-! ## Bounces -/

/-- A PULSE leaves the lock set, whether it was a real edge or a bounce (41_decoder.md R176). -/
theorem execPulse_sets_lock (s : State) : ∃ t, exec .pulse s = .next t ∧ t.dec.dbLock = true := by
  cases hl : s.dec.dbLock with
  | false => exact ⟨_, PulseDecoder.execPulse_unlocked hl, rfl⟩
  | true => exact ⟨s, PulseDecoder.execPulse_locked hl, hl⟩

/-- Bounces under the lock have no effect. -/
theorem execAll_bounces_locked {s : State} (hl : s.dec.dbLock = true) (j : Nat) :
    execAll (bounce j) s = .next s := by
  induction j with
  | zero => rfl
  | succ j ih =>
    have bounces : exec .pulse s = .next s := PulseDecoder.execPulse_locked hl
    exact (execAll_cons_of_next bounces (bounce j)).trans ih

/-- Settles O56: the first PULSE leaves the lock set, under which the others are bounces. -/
theorem bouncesChangeNothing : Obligations.BouncesChangeNothing := by
  intro s j
  obtain ⟨t, first, locked⟩ := execPulse_sets_lock s
  rw [first]
  exact (execAll_cons_of_next first (bounce j)).trans (execAll_bounces_locked locked j)

/-! ## A clean rotation -/

/-- The state after `k` counted pulses, each released (41_decoder.md R177, R181). -/
def afterPulses (s : State) (k : Nat) : State :=
  { s with
    dec := { s.dec with pulseCount := BitVec.ofNat 8 (min (s.dec.pulseCount.toNat + k) 255) }
    outputs := s.outputs ++ List.replicate k .sfCancel }

/-- The line is dialing, the lock is open and counting is not inhibited. -/
structure Counting (s : State) : Prop where
  dialing : s.dec.dialing = true
  unlocked : s.dec.dbLock = false
  uninhibited : s.dec.sfInhibit = false

theorem Counting.afterPulses {s : State} (h : Counting s) (k : Nat) : Counting (afterPulses s k) :=
  ⟨h.dialing, h.unlocked, h.uninhibited⟩

theorem afterPulses_zero (s : State) : afterPulses s 0 = s := by
  have room : min s.dec.pulseCount.toNat 255 = s.dec.pulseCount.toNat :=
    Nat.min_eq_left (Nat.le_of_lt_succ s.dec.pulseCount.isLt)
  simp [afterPulses, room]

/-- The saturated count goes up pulse by pulse. -/
theorem afterPulses_succ (s : State) (k : Nat) :
    afterPulses (afterPulses s 1) k = afterPulses s (k + 1) := by
  have count : min (min (s.dec.pulseCount.toNat + 1) 255 % 256 + k) 255 =
      min (s.dec.pulseCount.toNat + (k + 1)) 255 := by
    omega
  simp [afterPulses, count, List.replicate_succ]

/-- One pulse and the end of its lockout. -/
theorem execAll_pulse_dbrel {s : State} (h : Counting s) :
    execAll [.pulse, .dbrel] s = .next (afterPulses s 1) := by
  have isCounted : counted s.dec = true := by simp [counted, h.dialing, h.uninhibited]
  have edge := PulseDecoder.execPulse_unlocked h.unlocked
  refine (execAll_cons_of_next (i := .pulse) edge [.dbrel]).trans
    (execAll_singleton_of_next ((PulseDecoder.dbrelClearsLock _).trans ?_))
  simp [isCounted, h.dialing, h.unlocked, State.applyDec, afterPulses, countPulse]

theorem execAll_pulses {s : State} (h : Counting s) (k : Nat) :
    execAll (List.replicate k [Instr.pulse, .dbrel]).flatten s = .next (afterPulses s k) := by
  induction k generalizing s with
  | zero => rw [afterPulses_zero]; rfl
  | succ k ih =>
    rw [List.replicate_succ, List.flatten_cons, execAll_append_of_next (execAll_pulse_dbrel h),
      ih (h.afterPulses 1), afterPulses_succ]

/-- Settles O55: DIALS arms the count at 0, each of the `k` pulses counts, and DIALE classifies. -/
theorem cleanRotationDecodes : Obligations.CleanRotationDecodes := by
  intro s k resting unlocked uninhibited
  have arms := PulseDecoder.execDials_rest resting
  have counting : Counting
      (s.applyDec ({ s.dec with dialing := true, pulseCount := 0 }, [.sfArm])) :=
    ⟨rfl, unlocked, uninhibited⟩
  have ends := PulseDecoder.execDiale_dialing (counting.afterPulses k).dialing
  refine (execAll_cons_of_next (i := .dials) arms _).trans
    ((execAll_append_of_next (execAll_pulses counting k) [.diale]).trans
      ((execAll_singleton_of_next (i := .diale) ends).trans ?_))
  simp [afterPulses, State.applyDec, unlocked, uninhibited, List.replicate_succ']

end Sys2Proof.Sequences

/-!
The output lines and the strobes (10_state.md R43). The strobes of an operation are a function of the
operation and the decoder's registers before it (`strobesOf`).
-/

namespace Sys2Proof.OutputLines

open Sys2Proof.Machine Sys2Proof.Claims Sys2Proof.Operations Sys2Proof.Classifier

/-! ## Strobes -/

/-- The strobes of an operation: `digit_valid` by a DIALE that hands a digit out, `sf_arm` by a DIALS at
rest, `sf_cancel` by a DIALE or a qualifying PULSE while dialing (41_decoder.md R174, R177, R180). -/
def strobesOf (i : Instr) (d : Decoder) : Strobes :=
  match i with
  | .dials => ⟨false, !d.dialing, false⟩
  | .diale => ⟨d.dialing && decide (1 ≤ d.pulseCount.toNat ∧ d.pulseCount.toNat ≤ 10), false, d.dialing⟩
  | .pulse => ⟨false, false, d.dialing && !d.dbLock⟩
  | .init | .tone _ _ | .tick | .dbrel | .sfinh _ | .reset => ⟨false, false, false⟩

/-- An event of the DDS engine is no strobe (10_state.md R43). -/
theorem not_strobe_of_ddsEvent {e : OutEvent} (dds : isDdsEvent e = true) :
    isDigitOut e = false ∧ (e == .sfArm) = false ∧ (e == .sfCancel) = false := by
  cases e with
  | sampleOut v | outEn level | done => exact ⟨rfl, rfl, rfl⟩
  | digitOut d | dropped | sfArm | sfCancel => simp [isDdsEvent] at dds

/-- Where the DDS engine alone emits, nothing strobes. -/
theorem strobes_of_ddsEvents {s t : State} (events : ∀ e ∈ emittedSince s t, isDdsEvent e = true) :
    strobes s t = ⟨false, false, false⟩ := by
  have noStrobe := fun e he => not_strobe_of_ddsEvent (events e he)
  simp only [strobes, Strobes.mk.injEq, List.any_eq_false]
  refine ⟨fun e he => ?_, fun e he => ?_, fun e he => ?_⟩
  all_goals
    obtain ⟨noDigit, noArm, noCancel⟩ := noStrobe e he
    simp [*]

/-- A classified count strobes `digit_valid` exactly when it is valid (41_decoder.md R172, R180). -/
theorem isDigitOut_digitEvent_classify (p : MapPolicy) (count : PulseCount) :
    isDigitOut (digitEvent (classify p count)) =
      decide (1 ≤ count.toNat ∧ count.toNat ≤ 10) := by
  have off := classify_eq_off_iff p count
  by_cases valid : 1 ≤ count.toNat ∧ count.toNat ≤ 10
  · have digit : classify p count ≠ 31 := fun h => off.mp h valid
    rw [digitEvent, if_neg digit, decide_eq_true valid]
    rfl
  · rw [digitEvent, if_pos (off.mpr valid), decide_eq_false valid]
    rfl

theorem digitEvent_ne_sfArm (d : SymCode) : digitEvent d ≠ .sfArm := by
  unfold digitEvent
  split_ifs <;> simp

/-- The strobes of an operation of the decoder. -/
theorem strobes_applyDec_decoderEffect {i : Instr} (decoder : isDecoderOp i = true) (s : State) :
    strobes s (s.applyDec (decoderEffect i s.config s.dec)) = strobesOf i s.dec := by
  cases i with
  | dials => cases hd : s.dec.dialing <;> simp [strobes, decoderEffect, strobesOf, hd, isDigitOut]
  | diale =>
    have notArm := digitEvent_ne_sfArm (classify s.config.mapPolicy s.dec.pulseCount)
    have cancelIsNoDigit : isDigitOut .sfCancel = false := rfl
    cases hd : s.dec.dialing with
    | false => simp [strobes, decoderEffect, strobesOf, hd]
    | true =>
      simp [strobes, decoderEffect, strobesOf, hd, isDigitOut_digitEvent_classify, notArm,
        cancelIsNoDigit]
  | pulse =>
    cases hl : s.dec.dbLock <;> cases hd : s.dec.dialing <;>
      simp [strobes, decoderEffect, strobesOf, hd, hl, isDigitOut]
  | dbrel | sfinh lvl => simp [strobes, decoderEffect, strobesOf]
  | init | tone sym dur | tick | reset => simp [isDecoderOp] at decoder

/-- The strobes of every operation with a next state. -/
theorem strobes_of_exec {i : Instr} {s t : State} (h : exec i s = .next t) :
    strobes s t = strobesOf i s.dec := by
  obtain ⟨dds, rfl⟩ | ⟨decoder, rfl⟩ | ⟨rfl, rfl⟩ := exec_eq_next_cases h
  · rw [strobes_of_ddsEvents (by simpa using ddsEffect_events i s.config s.dds)]
    cases i with
    | init | tone sym dur | tick => rfl
    | diale | dials | pulse | dbrel | sfinh lvl | reset => simp [isDdsOp] at dds
  · exact strobes_applyDec_decoderEffect decoder s
  · refine strobes_of_ddsEvents ?_
    rw [emittedSince_resetBlock]
    split_ifs <;> simp [isDdsEvent]

theorem strobesOf_digitValid (i : Instr) (d : Decoder) :
    (strobesOf i d).digitValid = true ↔ i = .diale ∧ d.dialing = true ∧
      1 ≤ d.pulseCount.toNat ∧ d.pulseCount.toNat ≤ 10 := by
  cases i <;> simp [strobesOf]

theorem strobesOf_sfArm (i : Instr) (d : Decoder) :
    (strobesOf i d).sfArm = true ↔ i = .dials ∧ d.dialing = false := by
  cases i <;> simp [strobesOf]

theorem strobesOf_sfCancel (i : Instr) (d : Decoder) :
    (strobesOf i d).sfCancel = true ↔ d.dialing = true ∧
      (i = .diale ∨ (i = .pulse ∧ d.dbLock = false)) := by
  cases i <;> simp [strobesOf]

/-- With `digit_valid` the line `digit` carries the digit handed out (41_decoder.md R180). -/
theorem digit_of_digitValid {i : Instr} {s t : State} (h : exec i s = .next t)
    (valid : (strobes s t).digitValid = true) :
    OutEvent.digitOut (outputLines t).digit ∈ emittedSince s t ∧
      (outputLines t).digit.toNat ≤ 9 := by
  rw [strobes_of_exec h, strobesOf_digitValid] at valid
  obtain ⟨rfl, hd, lower, upper⟩ := valid
  cases (PulseDecoder.execDiale_dialing hd).symm.trans h
  have digit := classify_le s.config.mapPolicy lower upper
  have notOff : classify s.config.mapPolicy s.dec.pulseCount ≠ 31 :=
    fun off => (classify_eq_off_iff _ _).mp off ⟨lower, upper⟩
  refine ⟨?_, digit⟩
  rw [emittedSince_applyDec, digitEvent, if_neg notOff]
  exact List.mem_cons_of_mem _ (List.mem_singleton_self _)

/-! ## The handshake -/

/-- `cmd_ready` is 1 exactly when a command is enabled (30_encoding.md R93). -/
theorem cmdReady_iff_enabled {i : Instr} (command : isCommand i = true) (s : State) :
    (outputLines s).cmdReady = true ↔ ∀ w, exec i s ≠ .refused (.notEnabled w) := by
  cases hb : s.dds.busy with
  | false =>
    have ready : (outputLines s).cmdReady = true := by simp [outputLines, cmdReady, hb]
    exact iff_of_true ready fun w => exec_ne_refused (.inr hb) _
  | true =>
    have waits : ¬(outputLines s).cmdReady = true := by simp [outputLines, cmdReady, hb]
    exact iff_of_false waits fun h => h _ (exec_command_busy command hb)

/-- Settles O60. -/
theorem outputLinesAndStrobes : Obligations.OutputLinesAndStrobes := by
  refine ⟨fun _ => rfl, fun i s command => cmdReady_iff_enabled command s,
    fun i s t h => ⟨?_, digit_of_digitValid h, ?_, ?_⟩⟩
  · rw [strobes_of_exec h, strobesOf_digitValid]
  · rw [strobes_of_exec h, strobesOf_sfArm]
  · rw [strobes_of_exec h, strobesOf_sfCancel]

end Sys2Proof.OutputLines

/-!
Fixed values: the reset state (70_reset_and_hazards.md R240), the reference table (20_memory.md R62) and the
strap pins (10_state.md R39).
-/

namespace Sys2Proof.Constants

open Sys2Proof.Machine

/-- Settles O11: the value of `sample_out` is the one that the model leaves open. -/
theorem resetStateValues : Obligations.ResetStateValues :=
  ⟨⟨Config.unspecifiedSample 0, rfl⟩, rfl, rfl, rfl⟩

/-- Settles O57, by evaluation of the printed table. -/
theorem sineReference : Obligations.SineReference :=
  ⟨by decide, by decide, by decide, by decide, by decide⟩

/-- Settles O58. -/
theorem strapPins : Obligations.StrapPins := ⟨rfl, rfl, rfl, rfl⟩

end Sys2Proof.Constants

/-!
The length of a tone (40_dds.md R146). While a tone sounds, the ticks still to come are those left of the
current note and those of the notes after it (`remaining`); NEXT passes over notes of no ticks only, so each
effective TICK takes exactly one off, and the tone completes when none is left.
-/

namespace Sys2Proof.ToneLength

open Sys2Proof.Machine Sys2Proof.Claims Sys2Proof.Sequencer Sys2Proof.Exceptions

/-! ## The ticks of a note list -/

/-- The ticks of a note list (40_dds.md R146). -/
def noteTicks (c : Config) (l : List Note) : Nat := (l.map fun n => ticksOf c n.ms).sum

theorem toneLength_eq (c : Config) (sym : SymCode) (dur : Millis) :
    toneLength c sym dur = noteTicks c ((notes c sym dur).drop 0) := rfl

theorem noteTicks_drop_of_getElem? (c : Config) {l : List Note} {k : Nat} {n : Note}
    (at_k : l[k]? = some n) :
    noteTicks c (l.drop k) = ticksOf c n.ms + noteTicks c (l.drop (k + 1)) := by
  obtain ⟨inList, rfl⟩ := List.getElem?_eq_some_iff.mp at_k
  rw [noteTicks, List.drop_eq_getElem_cons inList, List.map_cons, List.sum_cons, noteTicks]

/-- Notes of zero length add no ticks. -/
theorem noteTicks_drop_of_silent {c : Config} {l : List Note} {j k : Nat} (lower : j ≤ k)
    (silent : ∀ i m, j ≤ i → i < k → l[i]? = some m → ticksOf c m.ms = 0) :
    noteTicks c (l.drop j) = noteTicks c (l.drop k) := by
  induction k, lower using Nat.le_induction with
  | base => rfl
  | succ k lower ih =>
    rw [ih fun i m le lt => silent i m le (Nat.lt_succ_of_lt lt)]
    cases at_k : l[k]? with
    | some n =>
      rw [noteTicks_drop_of_getElem? c at_k, silent k n lower (Nat.lt_succ_self k) at_k, Nat.zero_add]
    | none =>
      have beyond := List.getElem?_eq_none_iff.mp at_k
      rw [List.drop_eq_nil_of_le beyond, List.drop_eq_nil_of_le (Nat.le_succ_of_le beyond)]

/-- From the first sounding note on, there are its ticks and those of the notes after it. -/
theorem noteTicks_of_firstSounding {c : Config} {l : List Note} {j k : Nat} {n : Note}
    (first : FirstSounding c l j k n) :
    noteTicks c (l.drop j) = ticksOf c n.ms + noteTicks c (l.drop (k + 1)) := by
  obtain ⟨lower, at_k, -, silent⟩ := first
  rw [noteTicks_drop_of_silent lower silent, noteTicks_drop_of_getElem? c at_k]

theorem noteTicks_of_noneSounding {c : Config} {l : List Note} {j : Nat}
    (silent : NoneSounding c l j) : noteTicks c (l.drop j) = 0 := by
  refine List.sum_eq_zero fun x hx => ?_
  obtain ⟨m, hm, rfl⟩ := List.mem_map.mp hx
  obtain ⟨i, at_i⟩ := List.mem_iff_getElem?.mp hm
  rw [List.getElem?_drop] at at_i
  exact silent (j + i) m (Nat.le_add_right j i) at_i

/-! ## The ticks still to come -/

/-- The ticks left of the current note, and those of the notes after it (40_dds.md R146). -/
def remaining (c : Config) (d : Dds) : Nat :=
  d.target.toNat - d.tickCount.toNat +
    noteTicks c ((notes c d.curSym d.durArg).drop (d.noteIdx.toNat + 1))

/-- A tone is in progress, and its current note has a tick to come. -/
structure Sounding (d : Dds) : Prop where
  outEn : d.outEn = true
  busy : d.busy = true
  count_lt : d.tickCount.toNat < d.target.toNat

theorem Sounding.remaining_pos {d : Dds} (h : Sounding d) (c : Config) : 0 < remaining c d := by
  have count := h.count_lt
  unfold remaining
  omega

/-- When a note is loaded, there remain its ticks and those of the notes after it. -/
theorem remaining_loadNote {c : Config} {d : Dds} {j k : Nat} {n : Note}
    (first : FirstSounding c (notes c d.curSym d.durArg) j k n) :
    remaining c (loadNote c d k n) = noteTicks c ((notes c d.curSym d.durArg).drop j) := by
  rw [noteTicks_of_firstSounding first]
  obtain ⟨-, listed, -, -⟩ := first
  simp only [remaining, loadNote, Invariant.noteIdx_toNat listed, Invariant.target_toNat]
  rfl

/-- A loaded note of non-zero length sounds, once `out_en` and `busy` are set. -/
theorem loadNote_count_lt {c : Config} (d : Dds) {l : List Note} {j k : Nat} {n : Note}
    (first : FirstSounding c l j k n) :
    (loadNote c d k n).tickCount.toNat < (loadNote c d k n).target.toNat := by
  obtain ⟨-, -, sounds, -⟩ := first
  show 0 < (BitVec.ofNat 32 (ticksOf c n.ms)).toNat
  rwa [Invariant.target_toNat]

/-- An effective TICK takes one tick off those to come, or it was the last one (40_dds.md R140, R143,
R144). -/
theorem remaining_effectiveTick {c : Config} {d : Dds} (h : Sounding d) :
    (Sounding (effectiveTick c d).1 ∧ remaining c (effectiveTick c d).1 + 1 = remaining c d) ∨
      ((effectiveTick c d).1.busy = false ∧ remaining c d = 1) := by
  have count := h.count_lt
  obtain ⟨within, eq⟩ | ⟨last, k, n, first, eq⟩ | ⟨last, silent, eq⟩ := effectiveTick_cases c d <;>
    rw [eq]
  · have counts := Invariant.toNat_succ_of_lt count
    refine .inl ⟨⟨h.outEn, h.busy, counts.trans_lt within⟩, ?_⟩
    simp only [remaining, sampled, counts]
    omega
  · have later := remaining_loadNote (d := sampled c d) first
    refine .inl ⟨⟨h.outEn, h.busy, loadNote_count_lt _ first⟩, ?_⟩
    rw [later, remaining]
    simp only [sampled]
    omega
  · refine .inr ⟨rfl, ?_⟩
    rw [remaining, noteTicks_of_noneSounding silent]
    omega

/-- An effective TICK emits one sample (40_dds.md R139). -/
theorem effectiveTick_countP (c : Config) (d : Dds) :
    (effectiveTick c d).2.countP isSample = 1 := by
  obtain ⟨-, eq⟩ | ⟨-, _, _, -, eq⟩ | ⟨-, -, eq⟩ := effectiveTick_cases c d <;> rw [eq] <;> rfl

/-! ## A sequence of TICKs -/

/-- While `n` ticks at least are to come, `n` TICKs emit `n` samples, and `busy` falls with the last tick
to come. -/
theorem execAll_ticks {s : State} (h : Sounding s.dds) {n : Nat} (le : n ≤ remaining s.config s.dds) :
    ∃ u, execAll (ticks n) s = .next u ∧ (u.dds.busy = true ↔ n < remaining s.config s.dds) ∧
      u.outputs.countP isSample = s.outputs.countP isSample + n := by
  induction n generalizing s with
  | zero => exact ⟨s, rfl, iff_of_true h.busy (h.remaining_pos _), rfl⟩
  | succ n ih =>
    have run : execAll (ticks (n + 1)) s =
        execAll (ticks n) (s.applyDds (effectiveTick s.config s.dds)) :=
      execAll_cons_of_next (i := .tick) (Engine.execTick_effective h.outEn) (ticks n)
    have samples : (s.applyDds (effectiveTick s.config s.dds)).outputs.countP isSample =
        s.outputs.countP isSample + 1 := by
      rw [applyDds_outputs, List.countP_append, effectiveTick_countP]
    rw [run]
    obtain ⟨sounding, fewer⟩ | ⟨ends, one⟩ := remaining_effectiveTick (c := s.config) h
    · obtain ⟨u, ticked, busy, emitted⟩ :=
        ih (s := s.applyDds (effectiveTick s.config s.dds)) sounding
          (by simp only [applyDds_config, applyDds_dds]; omega)
      refine ⟨u, ticked, busy.trans ?_, by omega⟩
      simp only [applyDds_config, applyDds_dds]
      omega
    · obtain rfl : n = 0 := by omega
      exact ⟨_, rfl, iff_of_false (by simp [ends]) (by omega), samples⟩

/-- Settles O33. A tone that starts a note has its whole length to come; one with none to start has no
length, and is over. -/
theorem toneLastsItsTicks : Obligations.ToneLastsItsTicks := by
  intro s t sym dur n hb h le
  obtain ⟨-, -, rfl⟩ := execTone_eq_next h
  obtain ⟨k, m, first⟩ | silent := firstSounding_or_noneSounding s.config (notes s.config sym dur) 0
  · rw [startTone_of_firstSounding first]
    have sounding : Sounding (firstNoteLoaded s.config s.dds sym dur k m) :=
      ⟨rfl, rfl, loadNote_count_lt { s.dds with curSym := sym, durArg := dur } first⟩
    have whole : remaining s.config (firstNoteLoaded s.config s.dds sym dur k m) =
        toneLength s.config sym dur :=
      remaining_loadNote (d := { s.dds with curSym := sym, durArg := dur }) first
    obtain ⟨u, ticked, busy, emitted⟩ := execAll_ticks
      (s := s.applyDds (firstNoteLoaded s.config s.dds sym dur k m, [.outEn true])) sounding
      (le.trans whole.ge)
    refine ⟨u, ticked, busy.trans (by rw [← whole]; rfl), ?_⟩
    simpa [isSample] using emitted
  · have noTicks : toneLength s.config sym dur = 0 := by
      rw [toneLength_eq, noteTicks_of_noneSounding silent]
    obtain rfl : n = 0 := by omega
    rw [startTone_of_noneSounding silent]
    refine ⟨_, rfl, iff_of_false ?_ (by omega), ?_⟩
    · simp [silentToneEnded, hb]
    · simp [isSample]

end Sys2Proof.ToneLength

/-!
The period of the samples (40_dds.md R145) and the width of the phase accumulators (R141). Both rest on one
fact: the table is read at the phase modulo 1024, and every advance keeps the phase modulo 1024, since 1024
divides 2^PHASE_W.
-/

namespace Sys2Proof.Phase

open Sys2Proof.Machine Sys2Proof.Claims

theorem dvd_two_pow_phaseWidth (c : Config) : 1024 ∣ 2 ^ phaseWidth c :=
  pow_dvd_pow 2 (Nat.le_add_right 10 c.phaseExtra)

/-- Modulo 1024 the wrap of the accumulator is not seen (40_dds.md R141). -/
theorem advancePhase_mod (c : Config) (phase : Nat) (step : StepWidth) :
    advancePhase c phase step % 1024 = (phase + step.toNat) % 1024 :=
  Nat.mod_mod_of_dvd _ (dvd_two_pow_phaseWidth c)

/-- The slot of a phase depends on the phase modulo 1024 (40_dds.md R137). -/
theorem slotOf_congr {p q : Nat} (same : p % 1024 = q % 1024) : slotOf p = slotOf q := by
  unfold slotOf
  omega

theorem sineAt_congr (c : Config) {p q : Nat} (same : p % 1024 = q % 1024) :
    sineAt c p = sineAt c q := by
  apply BitVec.eq_of_toNat_eq
  rw [Engine.sineAt_toNat, Engine.sineAt_toNat, slotOf_congr same]

theorem sampleB_congr (c : Config) (stepB : StepWidth) {p q : Nat}
    (same : p % 1024 = q % 1024) : sampleB c stepB p = sampleB c stepB q := by
  rw [sampleB, sampleB, sineAt_congr c same]

end Sys2Proof.Phase

namespace Sys2Proof.Periodicity

open Sys2Proof.Machine Sys2Proof.Claims Sys2Proof.Phase

/-! ## The phase under a constant step -/

/-- The phase after `n` advances by a constant step (40_dds.md R136). -/
def phaseAfter (c : Config) (step : StepWidth) (n phase : Nat) : Nat :=
  (fun p => advancePhase c p step)^[n] phase

theorem phaseAfter_succ (c : Config) (step : StepWidth) (n phase : Nat) :
    phaseAfter c step (n + 1) phase = advancePhase c (phaseAfter c step n phase) step :=
  Function.iterate_succ_apply' ..

theorem phaseAfter_mod (c : Config) (step : StepWidth) (n phase : Nat) :
    phaseAfter c step n phase % 1024 = (phase + n * step.toNat) % 1024 := by
  induction n with
  | zero => simp [phaseAfter]
  | succ n ih =>
    rw [phaseAfter_succ, advancePhase_mod, Nat.add_mod, ih, ← Nat.add_mod, Nat.succ_mul,
      Nat.add_assoc]

/-- The multiples of `P(s)` are the numbers of advances that sum to multiples of 1024
(40_dds.md R145). -/
theorem period_dvd_iff (step : StepWidth) (n : Nat) : period step ∣ n ↔ 1024 ∣ n * step.toNat := by
  have gcd_pos : 0 < Nat.gcd 1024 step.toNat := Nat.gcd_pos_of_pos_left _ (by decide)
  have product : Nat.gcd 1024 step.toNat * (n * (step.toNat / Nat.gcd 1024 step.toNat)) =
      n * step.toNat := by
    rw [Nat.mul_left_comm, Nat.mul_div_cancel' (Nat.gcd_dvd_right ..)]
  calc period step ∣ n
      ↔ period step ∣ n * (step.toNat / Nat.gcd 1024 step.toNat) :=
        (Nat.coprime_div_gcd_div_gcd gcd_pos).dvd_mul_right.symm
    _ ↔ 1024 ∣ n * step.toNat := by
        rw [period, Nat.div_dvd_iff_dvd_mul (Nat.gcd_dvd_left ..) gcd_pos, product]

/-- A phase is back modulo 1024 exactly after the multiples of `P(s)` (40_dds.md R145). -/
theorem phaseAfter_returns_iff (c : Config) (step : StepWidth) (n phase : Nat) :
    phaseAfter c step n phase % 1024 = phase % 1024 ↔ period step ∣ n := by
  rw [phaseAfter_mod, period_dvd_iff, Nat.dvd_iff_mod_eq_zero]
  omega

/-- The phase modulo 1024 repeats after a multiple of `P(s)`. -/
theorem phaseAfter_add_mod (c : Config) {step : StepWidth} {m : Nat} (multiple : period step ∣ m)
    (n phase : Nat) :
    phaseAfter c step (n + m) phase % 1024 = phaseAfter c step n phase % 1024 := by
  have whole := Nat.dvd_iff_mod_eq_zero.mp ((period_dvd_iff step m).mp multiple)
  rw [phaseAfter_mod, phaseAfter_mod, Nat.add_mul]
  omega

/-! ## TICKs within a note -/

/-- What `k` TICKs of one note have made of `s`: the phases moved on by the steps of the note, the last
sample is that of the phases, and the note goes on if its last tick is still to come. -/
structure AfterTicks (s : State) (k : Nat) (u : State) : Prop where
  config : u.config = s.config
  phaseA : u.dds.phaseA = phaseAfter s.config s.dds.stepA k s.dds.phaseA
  phaseB : u.dds.phaseB = phaseAfter s.config s.dds.stepB k s.dds.phaseB
  sample : 1 ≤ k → u.dds.sampleOut =
    mix (sineAt s.config u.dds.phaseA) (sampleB s.config s.dds.stepB u.dds.phaseB)
  note : s.dds.tickCount.toNat + k < s.dds.target.toNat →
    u.dds.outEn = true ∧ u.dds.stepA = s.dds.stepA ∧ u.dds.stepB = s.dds.stepB ∧
      u.dds.target = s.dds.target ∧ u.dds.tickCount.toNat = s.dds.tickCount.toNat + k

theorem afterTicks_zero {s : State} (ho : s.dds.outEn = true) : AfterTicks s 0 s :=
  ⟨rfl, rfl, rfl, fun ticked => absurd ticked (by decide), fun _ => ⟨ho, rfl, rfl, rfl, rfl⟩⟩

/-- One more TICK of the note. -/
theorem AfterTicks.succ {s u : State} {k : Nat} (after : AfterTicks s k u)
    (inNote : s.dds.tickCount.toNat + k < s.dds.target.toNat) :
    AfterTicks s (k + 1) (u.applyDds (effectiveTick u.config u.dds)) := by
  obtain ⟨ho, stepA, stepB, target, count⟩ := after.note inNote
  refine ⟨after.config, ?_, ?_, fun _ => ?_, fun goesOn => ?_⟩
  · rw [applyDds_dds, effectiveTick_phaseA, after.config, stepA, after.phaseA, phaseAfter_succ]
  · rw [applyDds_dds, effectiveTick_phaseB, after.config, stepB, after.phaseB, phaseAfter_succ]
  · rw [applyDds_dds, effectiveTick_sampleOut, effectiveTick_phaseA, effectiveTick_phaseB,
      after.config, stepB]
  · have within : u.dds.tickCount.toNat + 1 < u.dds.target.toNat := by
      rw [target, count]
      omega
    rw [applyDds_dds, Sequencer.effectiveTick_within within]
    refine ⟨ho, stepA, stepB, target, ?_⟩
    have counts := Invariant.toNat_succ_of_lt (Nat.lt_of_succ_lt within)
    exact counts.trans (by omega)

/-- Up to the end of the note, TICKs run and do what `AfterTicks` says. -/
theorem execAll_ticks_inNote {s : State} {k : Nat} (ho : s.dds.outEn = true)
    (inNote : s.dds.tickCount.toNat + k ≤ s.dds.target.toNat) :
    ∃ u, execAll (ticks k) s = .next u ∧ AfterTicks s k u := by
  induction k with
  | zero => exact ⟨s, rfl, afterTicks_zero ho⟩
  | succ k ih =>
    obtain ⟨u, run, after⟩ := ih (by omega)
    obtain ⟨ho', -⟩ := after.note (by omega)
    refine ⟨_, ?_, after.succ (by omega)⟩
    rw [ticks, List.replicate_succ']
    exact (Sequences.execAll_append_of_next run [.tick]).trans
      (Sequences.execAll_singleton_of_next (i := .tick) (Engine.execTick_effective ho'))

/-- Tone A repeats after a multiple of its period. -/
theorem AfterTicks.phaseA_mod {s u v : State} {n m : Nat} (first : AfterTicks s n u)
    (later : AfterTicks s (n + m) v) (multiple : period s.dds.stepA ∣ m) :
    v.dds.phaseA % 1024 = u.dds.phaseA % 1024 := by
  rw [first.phaseA, later.phaseA, phaseAfter_add_mod _ multiple]

/-- Tone B repeats after a multiple of its period. -/
theorem AfterTicks.phaseB_mod {s u v : State} {n m : Nat} (first : AfterTicks s n u)
    (later : AfterTicks s (n + m) v) (multiple : period s.dds.stepB ∣ m) :
    v.dds.phaseB % 1024 = u.dds.phaseB % 1024 := by
  rw [first.phaseB, later.phaseB, phaseAfter_add_mod _ multiple]

/-- The sample repeats after a multiple of both periods. -/
theorem AfterTicks.sampleOut_eq {s u v : State} {n m : Nat} (first : AfterTicks s n u)
    (later : AfterTicks s (n + m) v) (ticked : 1 ≤ n) (multipleA : period s.dds.stepA ∣ m)
    (multipleB : period s.dds.stepB ∣ m) : v.dds.sampleOut = u.dds.sampleOut := by
  rw [first.sample ticked, later.sample (Nat.le_add_right_of_le ticked),
    sineAt_congr s.config (first.phaseA_mod later multipleA),
    sampleB_congr s.config s.dds.stepB (first.phaseB_mod later multipleB)]

/-- Settles O32: the arithmetic of a constant step, and the TICKs of one note, whose steps are
constant. -/
theorem samplesArePeriodic : Obligations.SamplesArePeriodic := by
  refine ⟨fun c step phase n => ⟨phaseAfter_returns_iff c step n phase, ?_, ?_⟩,
    fun s n ho inNote => ?_, fun s n ho ticked inNote => ?_⟩
  · exact phaseAfter_add_mod c (dvd_refl _) n phase
  · exact sineAt_congr c (phaseAfter_add_mod c (dvd_refl _) n phase)
  · obtain ⟨u, run, first⟩ := execAll_ticks_inNote (k := n) ho (by omega)
    obtain ⟨v, run', later⟩ :=
      execAll_ticks_inNote (k := n + period s.dds.stepA) ho (by omega)
    have same := first.phaseA_mod later (dvd_refl _)
    exact ⟨u, v, run, run', same, sineAt_congr s.config same⟩
  · obtain ⟨u, run, first⟩ := execAll_ticks_inNote (k := n) ho (by omega)
    obtain ⟨v, run', later⟩ := execAll_ticks_inNote
      (k := n + Nat.lcm (period s.dds.stepA) (period s.dds.stepB)) ho (by omega)
    exact ⟨u, v, run, run',
      first.sampleOut_eq later ticked (Nat.dvd_lcm_left ..) (Nat.dvd_lcm_right ..)⟩

end Sys2Proof.Periodicity

/-!
The width of the phase accumulators cannot be observed (40_dds.md R141). A machine with another PHASE_W is the
same configuration `withPhaseExtra` and the same registers `withPhases`; nothing but the sample datapath reads
either, and the sample is read at the phases modulo 1024.
-/

namespace Sys2Proof.PhaseWidth

open Sys2Proof.Machine Sys2Proof.Claims Sys2Proof.Phase Sys2Proof.Operations

/-! ## Another width, other phases -/

/-- The configuration with another PHASE_W. -/
def withPhaseExtra (c : Config) (k : Nat) : Config := { c with phaseExtra := k }

/-- The registers with other phases and another `sample_out`. -/
def withPhases (d : Dds) (a b : Nat) (v : Sample) : Dds :=
  { d with phaseA := a, phaseB := b, sampleOut := v }

section
variable (d : Dds) (a b : Nat) (v : Sample)
@[simp] theorem withPhases_curSym : (withPhases d a b v).curSym = d.curSym := rfl
@[simp] theorem withPhases_durArg : (withPhases d a b v).durArg = d.durArg := rfl
@[simp] theorem withPhases_noteIdx : (withPhases d a b v).noteIdx = d.noteIdx := rfl
end

/-- Two registers that differ in the phases by multiples of 1024, and in `sample_out`. -/
def SamePhases (d d' : Dds) : Prop :=
  ∃ a b v, d' = withPhases d a b v ∧ a % 1024 = d.phaseA % 1024 ∧ b % 1024 = d.phaseB % 1024

theorem SamePhases.busy {d d' : Dds} (same : SamePhases d d') : d'.busy = d.busy := by
  obtain ⟨a, b, v, rfl, -, -⟩ := same
  rfl

theorem SamePhases.outEn {d d' : Dds} (same : SamePhases d d') : d'.outEn = d.outEn := by
  obtain ⟨a, b, v, rfl, -, -⟩ := same
  rfl

/-- The two machines of `SameButPhaseWidth`, part by part, the second in terms of the first. -/
theorem sameButPhaseWidth_iff {s t : State} :
    SameButPhaseWidth s t ↔ (∃ k, t.config = withPhaseExtra s.config k) ∧ SamePhases s.dds t.dds ∧
      t.dec = s.dec ∧ t.stimuli = s.stimuli ∧ t.outputs = s.outputs := by
  constructor
  · rintro ⟨config, dds, phaseA, phaseB, dec, stimuli, outputs⟩
    exact ⟨⟨t.config.phaseExtra, by rw [← config]; rfl⟩,
      ⟨t.dds.phaseA, t.dds.phaseB, t.dds.sampleOut, by rw [← dds]; rfl, phaseA, phaseB⟩,
      dec, stimuli, outputs⟩
  · rintro ⟨⟨k, config⟩, ⟨a, b, v, dds, phaseA, phaseB⟩, dec, stimuli, outputs⟩
    exact ⟨by rw [config]; rfl, by rw [dds]; rfl, by rw [dds]; exact phaseA,
      by rw [dds]; exact phaseB, dec, stimuli, outputs⟩

/-- What the sequencer reads is not PHASE_W (40_dds.md R131 to R134). -/
theorem notes_withPhaseExtra (c : Config) (k : Nat) : notes (withPhaseExtra c k) = notes c := rfl

theorem nextNote_withPhaseExtra (c : Config) (k : Nat) :
    nextNote (withPhaseExtra c k) = nextNote c := rfl

theorem playable_withPhaseExtra (c : Config) (k : Nat) :
    playable (withPhaseExtra c k) = playable c := rfl

/-- The waveform is the same under every PHASE_W (40_dds.md R137). -/
theorem sineAt_withPhaseExtra (c : Config) (k : Nat) {p q : Nat} (same : p % 1024 = q % 1024) :
    sineAt (withPhaseExtra c k) p = sineAt c q := by
  apply BitVec.eq_of_toNat_eq
  rw [Engine.sineAt_toNat, Engine.sineAt_toNat, slotOf_congr same]
  rfl

theorem sampleB_withPhaseExtra (c : Config) (k : Nat) (stepB : StepWidth) {p q : Nat}
    (same : p % 1024 = q % 1024) : sampleB (withPhaseExtra c k) stepB p = sampleB c stepB q := by
  rw [sampleB, sampleB, sineAt_withPhaseExtra c k same]

/-- Advances of phases equal modulo 1024 are equal modulo 1024, whatever the widths. -/
theorem advancePhase_congr (c c' : Config) {p q : Nat} (step : StepWidth)
    (same : p % 1024 = q % 1024) : advancePhase c' p step % 1024 = advancePhase c q step % 1024 := by
  rw [advancePhase_mod, advancePhase_mod, Nat.add_mod, same, ← Nat.add_mod]

/-! ## The effects of the DDS engine -/

theorem startTone_withPhases (c : Config) (k : Nat) (d : Dds) (a b : Nat) (v : Sample)
    (sym : SymCode) (dur : Millis) :
    startTone (withPhaseExtra c k) (withPhases d a b v) sym dur =
      (withPhases (startTone c d sym dur).1 a b v, (startTone c d sym dur).2) := by
  unfold startTone
  simp only [notes_withPhaseExtra, nextNote_withPhaseExtra]
  cases (notes c sym dur)[nextNote c (notes c sym dur) 0]? <;> rfl

theorem tickCounter_withPhases (c : Config) (k : Nat) (d : Dds) (a b : Nat) (v : Sample) :
    tickCounter (withPhaseExtra c k) (withPhases d a b v) =
      (withPhases (tickCounter c d).1 a b v, (tickCounter c d).2) := by
  by_cases within : d.tickCount.toNat + 1 < d.target.toNat
  · have within' : (withPhases d a b v).tickCount.toNat + 1 < (withPhases d a b v).target.toNat :=
      within
    simp only [tickCounter, if_pos within, if_pos within']
    rfl
  · have last : ¬(withPhases d a b v).tickCount.toNat + 1 < (withPhases d a b v).target.toNat :=
      within
    simp only [tickCounter, if_neg within, if_neg last, notes_withPhaseExtra,
      nextNote_withPhaseExtra, withPhases_curSym, withPhases_durArg, withPhases_noteIdx]
    cases (notes c d.curSym d.durArg)[nextNote c (notes c d.curSym d.durArg)
      (d.noteIdx.toNat + 1)]? <;> rfl

/-- From phases equal modulo 1024 the sample is the same (40_dds.md R141). -/
theorem tickSample_withPhases (c : Config) (k : Nat) (d : Dds) {a b : Nat} (v : Sample)
    (sameA : a % 1024 = d.phaseA % 1024) (sameB : b % 1024 = d.phaseB % 1024) :
    tickSample (withPhaseExtra c k) (withPhases d a b v) =
      (withPhases (tickSample c d).1 (advancePhase (withPhaseExtra c k) a d.stepA)
        (advancePhase (withPhaseExtra c k) b d.stepB) (tickSample c d).1.sampleOut,
        (tickSample c d).2) := by
  have toneA := sineAt_withPhaseExtra c k (advancePhase_congr c (withPhaseExtra c k) d.stepA sameA)
  have toneB := sampleB_withPhaseExtra c k d.stepB
    (advancePhase_congr c (withPhaseExtra c k) d.stepB sameB)
  simp only [tickSample, withPhases, toneA, toneB]

/-- An effective TICK writes and emits the same sample, and the phases stay equal modulo 1024. -/
theorem effectiveTick_samePhases (c : Config) (k : Nat) {d d' : Dds} (same : SamePhases d d') :
    SamePhases (effectiveTick c d).1 (effectiveTick (withPhaseExtra c k) d').1 ∧
      (effectiveTick (withPhaseExtra c k) d').2 = (effectiveTick c d).2 ∧
      (effectiveTick (withPhaseExtra c k) d').1.sampleOut = (effectiveTick c d).1.sampleOut := by
  obtain ⟨a, b, v, rfl, sameA, sameB⟩ := same
  have eq : effectiveTick (withPhaseExtra c k) (withPhases d a b v) =
      (withPhases (effectiveTick c d).1 (advancePhase (withPhaseExtra c k) a d.stepA)
        (advancePhase (withPhaseExtra c k) b d.stepB) (tickSample c d).1.sampleOut,
        (effectiveTick c d).2) := by
    simp only [effectiveTick, tickSample_withPhases c k d v sameA sameB, tickCounter_withPhases]
  rw [eq]
  refine ⟨⟨_, _, _, rfl, ?_, ?_⟩, rfl, (effectiveTick_sampleOut c d).symm⟩
  · rw [effectiveTick_phaseA]
    exact advancePhase_congr c _ d.stepA sameA
  · rw [effectiveTick_phaseB]
    exact advancePhase_congr c _ d.stepB sameB

/-- The start of a tone emits no sample and writes none (40_dds.md R130). -/
theorem startTone_sample (c : Config) (d : Dds) (sym : SymCode) (dur : Millis) :
    (startTone c d sym dur).1.sampleOut = d.sampleOut ∧
      (startTone c d sym dur).2.any isSample = false := by
  obtain ⟨n, -, eq⟩ | ⟨-, eq⟩ := startTone_cases c d sym dur <;> rw [eq] <;> exact ⟨rfl, rfl⟩

theorem startTone_samePhases (c : Config) (k : Nat) {d d' : Dds} (same : SamePhases d d')
    (sym : SymCode) (dur : Millis) :
    SamePhases (startTone c d sym dur).1 (startTone (withPhaseExtra c k) d' sym dur).1 ∧
      (startTone (withPhaseExtra c k) d' sym dur).2 = (startTone c d sym dur).2 := by
  obtain ⟨a, b, v, rfl, sameA, sameB⟩ := same
  obtain ⟨phaseA, phaseB⟩ := startTone_phases c d sym dur
  rw [startTone_withPhases]
  exact ⟨⟨a, b, v, rfl, by rw [phaseA, sameA], by rw [phaseB, sameB]⟩, rfl⟩

/-- No effect of the DDS engine tells the two machines apart, but for a `sample_out` that was different
before and that no sample has written since. -/
theorem ddsEffect_samePhases (i : Instr) (c : Config) (k : Nat) {d d' : Dds}
    (same : SamePhases d d') :
    SamePhases (ddsEffect i c d).1 (ddsEffect i (withPhaseExtra c k) d').1 ∧
      (ddsEffect i (withPhaseExtra c k) d').2 = (ddsEffect i c d).2 ∧
      ((ddsEffect i c d).2.any isSample = true ∨ d'.sampleOut = d.sampleOut →
        (ddsEffect i (withPhaseExtra c k) d').1.sampleOut = (ddsEffect i c d).1.sampleOut) := by
  cases i with
  | init =>
    obtain ⟨a, b, v, rfl, -, -⟩ := same
    exact ⟨⟨0, 0, v, rfl, rfl, rfl⟩, rfl, fun kept => kept.resolve_left Bool.false_ne_true⟩
  | tone sym dur =>
    obtain ⟨phases, events⟩ := startTone_samePhases c k same sym dur
    obtain ⟨sample, noSample⟩ := startTone_sample c d sym dur
    obtain ⟨sample', -⟩ := startTone_sample (withPhaseExtra c k) d' sym dur
    refine ⟨phases, events, fun kept => sample'.trans (.trans ?_ sample.symm)⟩
    exact kept.resolve_left (by simp [ddsEffect, noSample])
  | tick =>
    simp only [ddsEffect, same.outEn]
    split_ifs
    · obtain ⟨phases, events, sample⟩ := effectiveTick_samePhases c k same
      exact ⟨phases, events, fun _ => sample⟩
    · exact ⟨same, rfl, fun kept => kept.resolve_left Bool.false_ne_true⟩
  | diale | dials | pulse | dbrel | sfinh lvl | reset =>
    exact ⟨same, rfl, fun kept => kept.resolve_left Bool.false_ne_true⟩

/-! ## The outcomes of the two machines -/

/-- The outcomes of the two machines that R141 calls the same: a next state again so related, with the same
`sample_out` where the claim speaks of it, the same fault, or the same refusal. -/
def OutcomesAgree (s t : State) (r r' : Result) : Prop :=
  (∀ s', r = .next s' → ∃ t', r' = .next t' ∧ SameButPhaseWidth s' t' ∧
    ((emittedSince s s').any isSample = true ∨
        (t.dds.sampleOut = s.dds.sampleOut ∧ s'.freeCount = s.freeCount) →
      t'.dds.sampleOut = s'.dds.sampleOut)) ∧
  (∀ f, r = .fault f → r' = .fault f) ∧
  (∀ q, r = .refused q → r' = .refused q)

/-- PHASE_W is no part of the host's contract. -/
theorem withinContract_withPhaseExtra (c : Config) (k : Nat) :
    withinContract (withPhaseExtra c k) = withinContract c := rfl

/-- The decoder reads the mapping policy only (41_decoder.md R186). -/
theorem decoderEffect_withPhaseExtra (i : Instr) (c : Config) (k : Nat) (d : Decoder) :
    decoderEffect i (withPhaseExtra c k) d = decoderEffect i c d := by
  cases i <;> rfl

/-- A sample is an event of the DDS engine (30_encoding.md R102). -/
theorem not_isSample_of_decoderEvent {e : OutEvent} (decoder : isDdsEvent e = false) :
    ¬isSample e = true := by
  cases e with
  | sampleOut v | outEn level | done => simp [isDdsEvent] at decoder
  | digitOut d | dropped | sfArm | sfCancel => exact Bool.false_ne_true

/-- The next states of one operation are related again. -/
theorem exec_next_samePhaseWidth {i : Instr} {s t s' t' : State} (same : SameButPhaseWidth s t)
    (h : exec i s = .next s') (h' : exec i t = .next t') :
    SameButPhaseWidth s' t' ∧
      ((emittedSince s s').any isSample = true ∨
          (t.dds.sampleOut = s.dds.sampleOut ∧ s'.freeCount = s.freeCount) →
        t'.dds.sampleOut = s'.dds.sampleOut) := by
  rw [sameButPhaseWidth_iff] at same ⊢
  obtain ⟨⟨k, config⟩, dds, dec, stimuli, outputs⟩ := same
  obtain ⟨ddsOp, rfl⟩ | ⟨decoderOp, rfl⟩ | ⟨rfl, rfl⟩ := exec_eq_next_cases h
  · obtain rfl := eq_applyDds_of_exec ddsOp h'
    obtain ⟨phases, events, sample⟩ := ddsEffect_samePhases i s.config k dds
    simp only [applyDds_config, applyDds_dds, applyDds_dec, applyDds_stimuli, applyDds_outputs,
      applyDds_freeCount, emittedSince_applyDds, config, events, outputs]
    exact ⟨⟨⟨k, rfl⟩, phases, dec, stimuli, trivial⟩,
      fun kept => sample (kept.imp_right fun ⟨same, _⟩ => same)⟩
  · cases (exec_decoderOp decoderOp t).symm.trans h'
    have noSample : (decoderEffect i s.config s.dec).2.any isSample = false :=
      List.any_eq_false.mpr fun e he =>
        not_isSample_of_decoderEvent (decoderEffect_events i s.config s.dec e he)
    simp only [applyDec_config, applyDec_dds, applyDec_dec, applyDec_stimuli, applyDec_outputs,
      applyDec_freeCount, emittedSince_applyDec, config, dec, outputs, noSample,
      decoderEffect_withPhaseExtra]
    exact ⟨⟨⟨k, rfl⟩, dds, trivial, stimuli, trivial⟩,
      fun kept => (kept.resolve_left Bool.false_ne_true).1⟩
  · cases h'
    have noSample : (emittedSince s s.resetBlock).any isSample = false := by
      rw [emittedSince_resetBlock]
      split_ifs <;> rfl
    refine ⟨⟨⟨k, config⟩, ⟨0, 0, _, rfl, rfl, rfl⟩, rfl, stimuli, ?_⟩, fun kept => ?_⟩
    · rw [resetBlock_outputs, resetBlock_outputs, outputs, dds.outEn]
    · obtain sampled | ⟨-, noDraw⟩ := kept
      · cases noSample.symm.trans sampled
      · simp at noDraw

/-- Every operation has the same outcome in the two machines (40_dds.md R141). -/
theorem exec_outcomesAgree (i : Instr) {s t : State} (same : SameButPhaseWidth s t) :
    OutcomesAgree s t (exec i s) (exec i t) := by
  obtain ⟨⟨k, config⟩, dds, -⟩ := sameButPhaseWidth_iff.mp same
  have busy := dds.busy
  refine ⟨fun s' h => ?_, fun f h => ?_, fun r h => ?_⟩
  · have accepted := (exec_next_iff i s).mp ⟨s', h⟩
    obtain ⟨t', h'⟩ : ∃ t', exec i t = .next t' := by
      rwa [exec_next_iff, config, withinContract_withPhaseExtra, busy]
    exact ⟨t', h', exec_next_samePhaseWidth same h h'⟩
  · rw [Stepping.exec_fault_iff] at h ⊢
    rwa [config, playable_withPhaseExtra, busy]
  · rw [exec_refused_iff] at h ⊢
    rwa [busy]

/-! ## The step -/

/-- The agents' steps depend on `busy` alone (30_encoding.md R93). -/
theorem takeEnabled_congr {d d' : Dds} (busy : d'.busy = d.busy) (words : List Word) :
    takeEnabled d' words = takeEnabled d words := by
  have enabled (w : Word) : agentEnabled d' w = agentEnabled d w := by
    rw [agentEnabled, agentEnabled, cmdReady, cmdReady, busy]
  induction words with
  | nil => rfl
  | cons w rest ih => rw [takeEnabled, takeEnabled, enabled, ih]

theorem withStimuli_sameButPhaseWidth {s t : State} (same : SameButPhaseWidth s t)
    (ws : List Word) : SameButPhaseWidth (s.withStimuli ws) (t.withStimuli ws) :=
  { same with stimuli_eq := rfl }

/-- Two idle machines stay as they are. -/
theorem idle_outcomesAgree {s t : State} (same : SameButPhaseWidth s t) :
    OutcomesAgree s t (.next s) (.next t) := by
  refine ⟨fun s' h => ?_, fun f h => ?_, fun r h => ?_⟩
  · cases h
    refine ⟨t, rfl, same, fun kept => ?_⟩
    obtain sampled | ⟨sample, -⟩ := kept
    · simp [emittedSince] at sampled
    · exact sample
  · cases h
  · cases h

/-- Two machines that refuse the same word have the same outcome. -/
theorem refused_outcomesAgree (s t : State) (q : Refusal) :
    OutcomesAgree s t (.refused q) (.refused q) := by
  refine ⟨fun s' h => ?_, fun f h => ?_, fun r h => h⟩
  · cases h
  · cases h

/-- Settles O31: the two machines take the same word, and its operation has the same outcome. -/
theorem phaseWidthIsUnobservable : Obligations.PhaseWidthIsUnobservable := by
  intro s t same
  show OutcomesAgree s t (step s) (step t)
  obtain ⟨-, dds, -, stimuli, -⟩ := sameButPhaseWidth_iff.mp same
  have sameTaken : takeEnabled t.dds t.stimuli = takeEnabled s.dds s.stimuli := by
    rw [stimuli, takeEnabled_congr dds.busy]
  have next_s : s.nextStimulus = (takeEnabled s.dds s.stimuli).map _ := rfl
  have next_t : t.nextStimulus = (takeEnabled t.dds t.stimuli).map _ := rfl
  rw [sameTaken] at next_t
  cases taken : takeEnabled s.dds s.stimuli with
  | none =>
    rw [taken, Option.map_none] at next_s next_t
    rw [Stepping.step_of_nextStimulus_none next_s, Stepping.step_of_nextStimulus_none next_t]
    exact idle_outcomesAgree same
  | some wordAndRest =>
    obtain ⟨w, rest⟩ := wordAndRest
    rw [taken, Option.map_some] at next_s next_t
    cases wf : wellFormedWord w with
    | true =>
      obtain ⟨i, hd⟩ := (RoundTrip.decodes_iff_wellFormed w).mpr wf
      rw [Stepping.step_of_decode next_s hd, Stepping.step_of_decode next_t hd]
      exact exec_outcomesAgree i (withStimuli_sameButPhaseWidth same rest)
    | false =>
      rw [Stepping.step_of_reserved next_s wf, Stepping.step_of_reserved next_t wf]
      exact refused_outcomesAgree s t _

end Sys2Proof.PhaseWidth
